-- ==== Sys2Proof/Word.lean ====
section
/-! DEFINITION. The word types TD18 moves: command words, register words, symbol words, bytes (spec/30_encoding.md). -/

namespace Sys2Proof

/-- One command word, 40 bits, bit 0 least significant (R40, R35). -/
abbrev CmdWord := BitVec 40

/-- One register or response word, 32 bits (R33, R45). -/
abbrev Word := BitVec 32

/-- One word of the symbol stream `OUT`, 6 bits: `END` in bit 5, `SYM` in bits 4..0 (R44). -/
abbrev OutWord := BitVec 6

/-- One sample byte, uninterpreted until the frame is estimated (R35, R41). -/
abbrev Byte := BitVec 8

/-- A register address, 5 bits (R33, R40). -/
abbrev CsrAddr := BitVec 5

end Sys2Proof
end

