-- ==== Sys2Proof/Config.lean ====
section
/-! DEFINITION. What is fixed for the machine: the parameters of spec/00_scope.md rule R8, the decided reset
patterns, the interface of the number-format parameter `FMT`, and the free values the spec leaves open. -/

namespace Sys2Proof

/-- The four arithmetic primitives the Power Estimator uses, over any number type `F` (00_scope.md section 5).
The estimator is written over this interface, so that the machine's format and exact arithmetic run the same text. -/
structure Arith (F : Type) where
  zero : F
  add : F → F → F
  sub : F → F → F
  mul : F → F → F

/-- The open parameter `FMT` (R8, R69): arithmetic, the two ordered comparisons, `F(n/d)` for a rational `n/d`, and
the 32-bit image `THRESH`, `RANGE` and `P` carry (R49): the value of an image and the image of a value. The first
argument of `bits` is the free pattern of a value that has none of its own, a NaN (log 5). -/
structure Format (F : Type) extends Arith F where
  lt : F → F → Bool
  gt : F → F → Bool
  ofRat : Int → Nat → F
  ofBits : Word → F
  bits : Word → F → Word

namespace Config

/-- `N`: samples per frame (R8). -/
abbrev frameLength : Nat := 240

/-- `NB`: bins (R8). -/
abbrev binCount : Nat := 18

/-- `FULLSCALE`: the divisor of sample normalisation (R8, R64). -/
def fullScale : Nat := 128

/-- `FSAMPLE` in hertz; it only names frequencies, no rule computes with it (R8). -/
def sampleRate : Nat := 8000

/-- `NSYM`: symbols, 28 and Invalid (R8, R47, 90_conflicts.md C2). -/
def symbolCount : Nat := 29

/-- Reset pattern of `THRESH`, 100.0 (R22). -/
def threshReset : Word := 0x42C80000#32

/-- Reset pattern of `RANGE`, the binary32 number nearest 0.1 (R23). -/
def rangeReset : Word := 0x3DCCCCCD#32

/-- `FLUSH`: the Formatter's default silence-flush frame count (R8, R115); outside TD18. -/
def flushDefault : Nat := 100

/-- FREE VALUE (log 4). `NORM(b, enc)` for the two encodings `START` refuses: "`NORM` need not be defined for it"
(93_implementation_defined.md U8). The pattern of some binary32 value, different for every operand pair. -/
opaque freeNorm : BitVec 2 → Byte → Word

/-- FREE VALUE (log 5). Sign and payload of the pattern stored for a power that is a NaN, by frame count and bin.
The spec says no power ever is one (R72) and gives no NaN pattern. -/
opaque freeNaN : Word → Fin 18 → Word

end Config

end Sys2Proof
end

