-- ==== Sys2Proof/Machine/Binary32.lean ====
section
/-! DEFINITION. IEEE 754 binary32, round to nearest, ties to even, no fused operations: the default of the parameter
`FMT` (spec/00_scope.md section 5 and R8, spec/41_estimator.md R69), and exact arithmetic for the statements the spec
marks *ideal*. -/

namespace Sys2Proof.Machine

/-- A value of type `F`. A finite value is a sign and a magnitude counted in units of 2^-149, the least positive
binary32 number, so every operation below is exact on naturals and then narrowed. A NaN has no payload here: no rule
reads one (U13). -/
inductive B32 where
  | nan
  | inf (neg : Bool)
  | fin (neg : Bool) (mag : Nat)
  deriving DecidableEq, Repr

/-- The least magnitude that overflows, 2^128 in units of 2^-149. -/
def B32.overflow : Nat := 2 ^ 277

/-- The quotient `n / d` rounded to a natural number, to nearest, ties to even. -/
def roundQuot (n d : Nat) : Nat :=
  let q := n / d
  let r := n % d
  if 2 * r < d then q else if d < 2 * r then q + 1 else q + q % 2

/-- The quotient `n / d` rounded to 24 significant bits or to a multiple of 1, whichever is coarser: the binary32
magnitudes, before overflow. -/
def roundMag (n d : Nat) : Nat :=
  let scale := 2 ^ ((n / d).log2 - 23)
  roundQuot n (d * scale) * scale

/-- The correctly rounded value of sign `neg` and magnitude `n / d` units of 2^-149. -/
def B32.round (neg : Bool) (n d : Nat) : B32 :=
  let k := roundMag n d
  if k < B32.overflow then .fin neg k else .inf neg

/-- Sign reversal. -/
def B32.negate : B32 → B32
  | .nan => .nan
  | .inf s => .inf (!s)
  | .fin s m => .fin (!s) m

/-- `fadd`. An exact zero sum of opposite signs is `+0`. -/
def B32.add : B32 → B32 → B32
  | .nan, _ => .nan
  | _, .nan => .nan
  | .inf s, .inf t => if s = t then .inf s else .nan
  | .inf s, .fin _ _ => .inf s
  | .fin _ _, .inf t => .inf t
  | .fin s m, .fin t n =>
    if s = t then B32.round s (m + n) 1
    else if n < m then B32.round s (m - n) 1
    else if m < n then B32.round t (n - m) 1
    else .fin false 0

/-- `fsub`. -/
def B32.sub (a b : B32) : B32 := B32.add a (B32.negate b)

/-- `fmul`. The product of two magnitudes counts units of 2^-298. -/
def B32.mul : B32 → B32 → B32
  | .nan, _ => .nan
  | _, .nan => .nan
  | .inf s, .inf t => .inf (s ^^ t)
  | .inf s, .fin t m => if m = 0 then .nan else .inf (s ^^ t)
  | .fin s m, .inf t => if m = 0 then .nan else .inf (s ^^ t)
  | .fin s m, .fin t n => B32.round (s ^^ t) (m * n) (2 ^ 149)

/-- The place of a value in the ordering, none for a NaN; the two zeros have one place, the infinities lie beyond every
finite value. -/
def B32.place : B32 → Option Int
  | .nan => none
  | .inf s => some (if s then -(B32.overflow : Int) else B32.overflow)
  | .fin s m => some (if s then -(m : Int) else m)

/-- `flt`: ordered "less than", false when either operand is a NaN. -/
def B32.lt (a b : B32) : Bool :=
  match B32.place a, B32.place b with
  | some x, some y => decide (x < y)
  | _, _ => false

/-- `fgt`: ordered "greater than", false when either operand is a NaN. -/
def B32.gt (a b : B32) : Bool := B32.lt b a

/-- `F(n/d)`: a rational number rounded to the format. -/
def B32.ofRat (n : Int) (d : Nat) : B32 :=
  B32.round (decide (n < 0)) (n.natAbs * 2 ^ 149) d

/-- The sign, biased exponent and fraction fields of a pattern (R49). -/
def signField (w : Word) : Bool := w.getLsbD 31
def expField (w : Word) : BitVec 8 := w.extractLsb' 23 8
def fracField (w : Word) : BitVec 23 := w.extractLsb' 0 23

/-- `fromBits` (R49). -/
def B32.ofBits (w : Word) : B32 :=
  let e := (expField w).toNat
  let f := (fracField w).toNat
  if e = 255 then
    if f = 0 then .inf (signField w) else .nan
  else if e = 0 then .fin (signField w) f
  else .fin (signField w) ((2 ^ 23 + f) * 2 ^ (e - 1))

/-- The pattern made of the three fields. -/
def packB32 (neg : Bool) (e : BitVec 8) (f : BitVec 23) : Word := BitVec.ofBool neg ++ e ++ f

/-- Some NaN pattern, sign and payload taken from `free`; every NaN pattern is `nanPattern` of itself. -/
def nanPattern (free : Word) : Word :=
  packB32 (signField free) 255#8 (if fracField free = 0 then 0x400000#23 else fracField free)

/-- `bits` (R49). `free` gives the pattern of a NaN, which the spec leaves open; no other value depends on it. -/
def B32.toBits (free : Word) : B32 → Word
  | .nan => nanPattern free
  | .inf s => packB32 s 255#8 0#23
  | .fin s m =>
    if m < 2 ^ 23 then packB32 s 0#8 (BitVec.ofNat 23 m)
    else packB32 s (BitVec.ofNat 8 (m.log2 - 22)) (BitVec.ofNat 23 (m / 2 ^ (m.log2 - 23)))

/-- The values of the format: a finite magnitude has at most 24 significant bits and does not overflow. -/
def B32.representable : B32 → Bool
  | .nan => true
  | .inf _ => true
  | .fin _ m => decide (m < B32.overflow) && m % 2 ^ (m.log2 - 23) == 0

/-- The default of `FMT` (R8, R69). -/
def binary32 : Format B32 where
  zero := .fin false 0
  add := B32.add
  sub := B32.sub
  mul := B32.mul
  lt := B32.lt
  gt := B32.gt
  ofRat := B32.ofRat
  ofBits := B32.ofBits
  bits := B32.toBits

/-- `FMT` at its default: the format of `exec`, `step` and `core`, whose names take no argument (log 6). -/
def fmt : Format B32 := binary32

/-- *Ideal* arithmetic over any ring (R70): every operation exact. -/
def idealArith (R : Type) [Ring R] : Arith R where
  zero := 0
  add := fun a b => a + b
  sub := fun a b => a - b
  mul := fun a b => a * b

/-- The rational value of a finite binary32 value; NaN and the infinities have none and give 0, a value no statement
uses. -/
def B32.toRat : B32 → Rat
  | .nan => 0
  | .inf _ => 0
  | .fin s m => (if s then -(m : Rat) else m) / (2 ^ 149 : Nat)

/-- The finite value of a pattern as a signed count of units of 2^-149; 0 for a NaN or an infinity, which no constant
of the bin table is. -/
def patternUnits (w : Word) : Int :=
  match B32.ofBits w with
  | .fin s m => if s then -(m : Int) else m
  | .nan | .inf _ => 0

/-- `FMT` instantiated with the rationals, every operation exact (R69). The spec gives the rationals no 32-bit image,
so the image and its value are arguments (log 6). -/
def rationalFormat (image : Rat → Word) (value : Word → Rat) : Format Rat where
  toArith := idealArith Rat
  lt := fun a b => decide (a < b)
  gt := fun a b => decide (b < a)
  ofRat := fun n d => (n : Rat) / d
  ofBits := value
  bits := fun _ => image

end Sys2Proof.Machine
end

