-- ==== Sys2Proof/Machine/Bins.lean ====
section
/-! DEFINITION. The tone bin table, the position constants and the bin groups: one unit, defined once and used
everywhere (spec/30_encoding.md R48; spec/41_estimator.md R75 to R77; spec/70_reset_and_hazards.md R148). -/

namespace Sys2Proof.Machine

/-- A bin position 0..17 (R48). -/
abbrev Bin := Fin 18

/-- Call-progress bins (R48). -/
def Bin.X1 : Bin := 0
def Bin.X2 : Bin := 1
def Bin.X3 : Bin := 2
def Bin.X4 : Bin := 3
/-- DTMF row bins (R48). -/
def Bin.R1 : Bin := 4
def Bin.R2 : Bin := 5
def Bin.R3 : Bin := 6
def Bin.R4 : Bin := 8
/-- DTMF column bins (R48). -/
def Bin.C1 : Bin := 10
def Bin.C2 : Bin := 12
def Bin.C3 : Bin := 13
def Bin.C4 : Bin := 14
/-- MF bins; `B1` is the bin of `R1` and `B5` the bin of `C3` (R48). -/
def Bin.B1 : Bin := 4
def Bin.B2 : Bin := 7
def Bin.B3 : Bin := 9
def Bin.B4 : Bin := 11
def Bin.B5 : Bin := 13
def Bin.B6 : Bin := 15
def Bin.B7 : Bin := 16
def Bin.B8 : Bin := 17
/-- The supervisory bins, 2400 and 2600 Hz (R48). -/
def Bin.S2400 : Bin := Bin.B7
def Bin.S2600 : Bin := Bin.B8

/-- `X[0..3]` (R48). -/
def lowBand : Fin 4 → Bin := ![Bin.X1, Bin.X2, Bin.X3, Bin.X4]

/-- `ROW[0..3]` (R48, R92). -/
def rowBin : Fin 4 → Bin := ![Bin.R1, Bin.R2, Bin.R3, Bin.R4]

/-- `COL[0..3]` (R48, R92). -/
def colBin : Fin 4 → Bin := ![Bin.C1, Bin.C2, Bin.C3, Bin.C4]

/-- `MFB[0..7]` (R48, R95). -/
def mfBin : Fin 8 → Bin := ![Bin.B1, Bin.B2, Bin.B3, Bin.B4, Bin.B5, Bin.B6, Bin.B7, Bin.B8]

/-- `K[0..17]`: the DFT index of each bin (R75). -/
def binIndex : Bin → Nat := ![11, 13, 14, 19, 21, 23, 26, 27, 28, 33, 36, 39, 40, 45, 49, 51, 72, 78]

/-- The nominal frequency in hertz that decides each bin's index: the MF frequency for the two shared bins (R75,
R76). -/
def nominalHz : Bin → Nat :=
  ![350, 440, 480, 620, 700, 770, 852, 900, 941, 1100, 1209, 1300, 1336, 1500, 1633, 1700, 2400, 2600]

/-- The nominal signalling frequencies in hertz each bin serves, two for the shared bins (R74, R75). -/
def servesHz : Bin → List Nat :=
  ![[350], [440], [480], [620], [697, 700], [770], [852], [900], [941], [1100], [1209], [1300], [1336], [1477, 1500],
    [1633], [1700], [2400], [2600]]

/-- The bin's centre frequency `K[j]·8000/240` in hertz (R75). -/
def centreHz (j : Bin) : Rat := (binIndex j * Config.sampleRate : Nat) / (Config.frameLength : Nat)

/-- `bits(COEF[0..17])`, the normative patterns (R75). -/
def coefBits : Bin → Word :=
  ![0x3FF57536#32, 0x3FF150F4#32, 0x3FEEFF20#32, 0x3FE0FA29#32, 0x3FDA46A0#32, 0x3FD2F9EF#32,
    0x3FC6F30A#32, 0x3FC2A9F7#32, 0x3FBE3EBD#32, 0x3FA6423A#32, 0x3F967918#32, 0x3F85C277#32,
    0x3F800000#32, 0x3F43EF15#32, 0x3F116A76#32, 0x3EEF0C4D#32, 0xBF1E377A#32, 0xBF687171#32]

/-- `MemRead(ROM, j, 4)`: `COEF[j]`, the rational value of the normative binary32 constant, as a value of the format
(R32, R69, R75). -/
def coef {F : Type} (A : Format F) (j : Bin) : F := A.ofRat (patternUnits (coefBits j)) (2 ^ 149)

end Sys2Proof.Machine
end

