-- ==== Sys2Proof/Syntax.lean ====
section
/-! DEFINITION. The commands of spec/opcode_table.json, one constructor per row, and the pseudo-instructions of
spec/30_encoding.md rule R51. -/

namespace Sys2Proof

/-- One constructor per row of the command table (R42); `reservedOp6` is the table's row for the reserved opcode,
whose 37 other bits are ignored (R43). -/
inductive Instr where
  | nop
  | sample (b : Byte)
  | eos
  | start
  | wrcsr (a : CsrAddr) (v : Word)
  | rdcsr (a : CsrAddr)
  | reset
  | reservedOp6 (x : BitVec 37)
  deriving DecidableEq, Repr

/-- The mnemonic of the command table's row. -/
def Instr.mnemonic : Instr → String
  | .nop => "NOP"
  | .sample _ => "SAMPLE"
  | .eos => "EOS"
  | .start => "START"
  | .wrcsr _ _ => "WRCSR"
  | .rdcsr _ => "RDCSR"
  | .reset => "RESET"
  | .reservedOp6 _ => "RESERVED_OP6"

/-- The pseudo-instructions of R51. The two register settings take a rational number `n/d`. -/
inductive Pseudo where
  | frame (bytes : List Byte)
  | samples (bytes : List Byte)
  | setencSigned
  | setencUnsigned
  | setthresh (n : Int) (d : Nat)
  | setrange (n : Int) (d : Nat)
  | session (bytes : List Byte)
  deriving DecidableEq, Repr

end Sys2Proof
end

