-- ==== Sys2Proof/WellFormed.lean ====
section
/-! DEFINITION. Which terms of the syntax stand for something the spec writes. -/

namespace Sys2Proof

/-- Every operand value of every command is encodable: the fields have exactly the widths of R40, so no term of
`Instr` is ill-formed. -/
def Instr.wf (_ : Instr) : Bool := true

/-- The seven defined commands of R42, as against the table's row for the reserved opcode 6, which is an illegal word
(R43). -/
def Instr.isCommand : Instr → Bool
  | .reservedOp6 _ => false
  | .nop | .sample _ | .eos | .start | .wrcsr _ _ | .rdcsr _ | .reset => true

/-- `FRAME` takes exactly 240 bytes, and a rational operand has a denominator (R51). -/
def Pseudo.wf : Pseudo → Bool
  | .frame bytes => bytes.length == Config.frameLength
  | .samples _ | .session _ | .setencSigned | .setencUnsigned => true
  | .setthresh _ d | .setrange _ d => d != 0

end Sys2Proof
end

