-- ==== Sys2Proof/Decode.lean ====
section
/-! DEFINITION. Decoding a 40-bit command word, total, rejecting by name (R40 to R43), and the encoder. -/

namespace Sys2Proof

/-- Why a word is illegal (R43): a stray bit in a field the command requires to be 0. (`OP` = 6 is the table's own row
`reservedOp6`.) -/
inductive IllegalWord where
  | strayNop
  | straySample
  | strayEos
  | strayStart
  | strayRdcsr
  | strayReset
  deriving DecidableEq, Repr

/-- What a word decodes to. -/
inductive Decoded where
  | instr (i : Instr)
  | illegal (why : IllegalWord)
  deriving DecidableEq, Repr

/-- `OP = w[39:37]` (R41). -/
def fieldOp (w : CmdWord) : BitVec 3 := w.extractLsb' 37 3

/-- `A = w[36:32]` (R41). -/
def fieldA (w : CmdWord) : CsrAddr := w.extractLsb' 32 5

/-- `D = w[31:0]` (R41). -/
def fieldD (w : CmdWord) : Word := w.extractLsb' 0 32

/-- The sample byte `D[7:0]` (R41). -/
def sampleByte (d : Word) : Byte := d.extractLsb' 0 8

/-- `D[31:8]`, which must be 0 for `SAMPLE` (R42). -/
def sampleHigh (d : Word) : BitVec 24 := d.extractLsb' 8 24

/-- The opcode map of R42 on the three fields; unused fields must be 0 (R43). -/
def decodeFields (op : BitVec 3) (a : CsrAddr) (d : Word) : Decoded :=
  if op = 0#3 then
    if a = 0 ∧ d = 0 then .instr .nop else .illegal .strayNop
  else if op = 1#3 then
    if a = 0 ∧ sampleHigh d = 0 then .instr (.sample (sampleByte d)) else .illegal .straySample
  else if op = 2#3 then
    if a = 0 ∧ d = 0 then .instr .eos else .illegal .strayEos
  else if op = 3#3 then
    if a = 0 ∧ d = 0 then .instr .start else .illegal .strayStart
  else if op = 4#3 then
    .instr (.wrcsr a d)
  else if op = 5#3 then
    if d = 0 then .instr (.rdcsr a) else .illegal .strayRdcsr
  else if op = 6#3 then
    .instr (.reservedOp6 (a ++ d))
  else
    if a = 0 ∧ d = 0 then .instr .reset else .illegal .strayReset

/-- Total: every one of the 2^40 words is a command, the reserved opcode, or illegal by name (R43). -/
def decode (w : CmdWord) : Decoded :=
  decodeFields (fieldOp w) (fieldA w) (fieldD w)

/-- `{OP, A, D}`, `OP` in the most significant position (R40). -/
def packFields (op : BitVec 3) (a : CsrAddr) (d : Word) : CmdWord := op ++ a ++ d

/-- The word of a command (R42, R50). -/
def encode : Instr → CmdWord
  | .nop => packFields 0 0 0
  | .sample b => packFields 1 0 (0#24 ++ b)
  | .eos => packFields 2 0 0
  | .start => packFields 3 0 0
  | .wrcsr a v => packFields 4 a v
  | .rdcsr a => packFields 5 a 0
  | .reset => packFields 7 0 0
  | .reservedOp6 x => 6#3 ++ x

/-- One row of the table of R42: a word `w` is the command when `w AND mask = pattern`. -/
structure OpcodeRow where
  mnemonic : String
  pattern : CmdWord
  mask : CmdWord
  deriving DecidableEq, Repr

/-- The `match` and `mask` columns of R42, and the table's row for opcode 6 (R43). -/
def opcodeRows : List OpcodeRow :=
  [⟨"NOP", 0x0000000000, 0xFFFFFFFFFF⟩,
   ⟨"SAMPLE", 0x2000000000, 0xFFFFFFFF00⟩,
   ⟨"EOS", 0x4000000000, 0xFFFFFFFFFF⟩,
   ⟨"START", 0x6000000000, 0xFFFFFFFFFF⟩,
   ⟨"WRCSR", 0x8000000000, 0xE000000000⟩,
   ⟨"RDCSR", 0xA000000000, 0xE0FFFFFFFF⟩,
   ⟨"RESET", 0xE000000000, 0xFFFFFFFFFF⟩,
   ⟨"RESERVED_OP6", 0xC000000000, 0xE000000000⟩]

/-- The instruction the decoder reads from a table word of `nbits` bits, bits above `nbits` 0. Every command has one
40-bit word (R40), so nothing longer is an instruction. -/
def decodeTableWord (nbits w : Nat) : Option Instr :=
  if nbits ≤ 40 ∧ w < 2 ^ nbits then
    match decode (BitVec.ofNat 40 w) with
    | .instr i => some i
    | .illegal _ => none
  else none

end Sys2Proof
end

