-- ==== Sys2Proof/Machine/State.lean ====
section
/-! DEFINITION. The state of one TD18 instance (spec/10_state.md rule R10), with the streams at its ports
(spec/20_memory.md rule R30), and the state after reset (R29). -/

namespace Sys2Proof.Machine

/-- `PHASE<1>` (R12): 0 = `IDLE`, no session open; 1 = `RUN`, a session is open. -/
inductive Phase where
  | idle
  | run
  deriving DecidableEq, Repr

/-- The closed enumeration of 29 symbols (R47); the 5-bit codes are `Symbol.code`. -/
inductive Symbol where
  | d0 | d1 | d2 | d3 | d4 | d5 | d6 | d7 | d8 | d9
  | star | hash
  | la | lb | lc | ld
  | c11 | c12 | kp1 | kp2 | st
  | s2400 | s2600 | s2400x2600
  | dialtone | ring | busy
  | silence
  | invalid
  deriving DecidableEq, Repr

/-- The three sticky error flags `raise` names (R118). -/
inductive ErrFlag where
  | cfgerr
  | seqerr
  | illcmd
  deriving DecidableEq, Repr

/-- The host's two moves on the ports (R9): present one command word, or assert the reset input (R137). Reading the
output streams changes nothing. -/
inductive HostMove where
  | command (w : CmdWord)
  | resetInput
  deriving DecidableEq, Repr

/-- The frame buffer as address and byte pairs, addresses strictly rising, no entry equal to what an unlisted address
reads as. -/
abbrev Memory := List Host.Cell

/-- What an unlisted address of `FB` reads as (log 3): the spec leaves the contents unspecified and unobservable
(R14). -/
def Memory.unlisted : Byte := 0#8

/-- The canonical form of the frame buffer: strictly rising addresses, all of them in 0..239 (R31), no entry that an
unlisted address would give. -/
abbrev Memory.wf (m : Memory) : Prop :=
  m.Pairwise (fun c d => c.1 < d.1) ∧ ∀ c ∈ m, c.1 < Config.frameLength ∧ c.2 ≠ Memory.unlisted

/-- The state. Every field but the last three is a register of R10; the last three are the streams at the ports, which
belong to the environment (R10, R30) and are held here because a step has no other place for them (log 2). -/
@[ext]
structure State where
  /-- `PHASE<1>` (R12). -/
  phase : Phase
  /-- `CNT<8>`, range 0..239 (R13). -/
  cnt : Fin 240
  /-- `FB[0..239]`, one byte each (R14). -/
  fb : Memory
  /-- `MF<1>` (R15). -/
  mf : Bool
  /-- `P[0..17]`, 32-bit patterns of type `F` (R16, R49). -/
  p : Vector Word 18
  /-- `ON<18>` (R17). -/
  on : BitVec 18
  /-- `SYM<5>` (R18). -/
  sym : Symbol
  /-- `SYMV<1>` (R18). -/
  symv : Bool
  /-- `FRAMES<32>` (R19). -/
  frames : Word
  /-- `EOSF` (R20). -/
  eosf : Bool
  /-- `CFGERR` (R20, R122). -/
  cfgerr : Bool
  /-- `SEQERR` (R20, R120). -/
  seqerr : Bool
  /-- `ILLCMD` (R20, R121). -/
  illcmd : Bool
  /-- `ENC<2>`, the field of `CFG` (R21). -/
  enc : BitVec 2
  /-- `THRESH`, stored bit for bit (R22). -/
  thresh : Word
  /-- `RANGE`, stored bit for bit (R23). -/
  range : Word
  /-- The host's moves not yet taken, oldest first: the command stream `CMD` with the assertions of the reset input
  (R30 d, R137). -/
  inputs : List HostMove
  /-- `OUT`: the symbol words appended so far, oldest first (R30 e, R44). -/
  out : List OutWord
  /-- `RSP`: the response words appended so far, oldest first (R30 f, R45). -/
  rsp : List Word
  deriving DecidableEq, Repr

/-- TD18 never stops with a fault: it "is never stuck, never hangs" (R155) and has no trap (R127). No constructor, so
no step can answer one. -/
inductive Fault where
  deriving DecidableEq, Repr

/-- Reasons to refuse an instruction. -/
inductive Refusal where
  /-- Raised by `exec`'s arm of an instruction without a meaning, of which there is none; safe. -/
  | notModelled (mnemonic : String)
  deriving DecidableEq, Repr

/-- The state after reset (R29, R136): every register at the value of the table of R29. `FB` lists nothing (its contents
are unspecified, log 3), and the three streams are empty. -/
def State.reset : State where
  phase := .idle
  cnt := 0
  fb := []
  mf := false
  p := Vector.replicate 18 0#32
  on := 0#18
  sym := .silence
  symv := false
  frames := 0#32
  eosf := false
  cfgerr := false
  seqerr := false
  illcmd := false
  enc := 0#2
  thresh := Config.threshReset
  range := Config.rangeReset
  inputs := []
  out := []
  rsp := []

end Sys2Proof.Machine
end

