-- ==== Sys2Proof/Machine/Operands.lean ====
section
/-! DEFINITION. Operand forms: sample conversion (R46, R64), symbol codes (R47), the words of `OUT` (R44), and the
register map (R26). -/

namespace Sys2Proof.Machine

/-- `ENC` values (R21): 0 signed, 1 unsigned; 2 and 3 are unsupported. -/
def encSupported (enc : BitVec 2) : Bool := enc == 0#2 || enc == 1#2

/-- The integer value of a sample byte (R46): two's complement for `ENC` = 0, offset 128 otherwise. -/
def sampleValue (enc : BitVec 2) (b : Byte) : Int :=
  if enc = 0#2 then b.toInt else (b.toNat : Int) - 128

/-- `NORM(b, enc)` (R64): the sample's integer over 128. For the two encodings `START` refuses the value is free
(U8, log 4). -/
def norm {F : Type} (A : Format F) (enc : BitVec 2) (b : Byte) : F :=
  if encSupported enc then A.ofRat (sampleValue enc b) Config.fullScale
  else A.ofBits (Config.freeNorm enc b)

/-- The 5-bit code of a symbol (R47). -/
def Symbol.code : Symbol → BitVec 5
  | .d0 => 0
  | .d1 => 1
  | .d2 => 2
  | .d3 => 3
  | .d4 => 4
  | .d5 => 5
  | .d6 => 6
  | .d7 => 7
  | .d8 => 8
  | .d9 => 9
  | .star => 10
  | .hash => 11
  | .la => 12
  | .lb => 13
  | .lc => 14
  | .ld => 15
  | .c11 => 16
  | .c12 => 17
  | .kp1 => 18
  | .kp2 => 19
  | .st => 20
  | .s2400 => 21
  | .s2600 => 22
  | .s2400x2600 => 23
  | .dialtone => 24
  | .ring => 25
  | .busy => 26
  | .silence => 27
  | .invalid => 31

/-- Every symbol, in the order of R47. -/
def Symbol.all : List Symbol :=
  [.d0, .d1, .d2, .d3, .d4, .d5, .d6, .d7, .d8, .d9, .star, .hash, .la, .lb, .lc, .ld, .c11, .c12, .kp1, .kp2, .st,
   .s2400, .s2600, .s2400x2600, .dialtone, .ring, .busy, .silence, .invalid]

/-- The symbol of a code; none for 28, 29 and 30, which are never produced (R47). -/
def Symbol.ofCode (c : BitVec 5) : Option Symbol := Symbol.all.find? (fun s => s.code == c)

/-- The `OUT` word of a completed frame, `{0, s}` (R44). -/
def symbolWord (s : Symbol) : OutWord := 0#1 ++ s.code

/-- The `OUT` word of an accepted `EOS`, `{1, 00000}` (R44). -/
def endWord : OutWord := 1#1 ++ 0#5

/-- The registers of the map (R26). -/
inductive Csr where
  | cfg
  | thresh
  | range
  | status
  | frames
  | symbol
  | onmask
  | power (j : Bin)
  deriving DecidableEq, Repr

/-- The register at an address; none for the reserved addresses `0x07` and `0x1A`..`0x1F` (R26). -/
def Csr.ofAddr (a : CsrAddr) : Option Csr :=
  if a = 0x00#5 then some .cfg
  else if a = 0x01#5 then some .thresh
  else if a = 0x02#5 then some .range
  else if a = 0x03#5 then some .status
  else if a = 0x04#5 then some .frames
  else if a = 0x05#5 then some .symbol
  else if a = 0x06#5 then some .onmask
  else if h : 8 ≤ a.toNat ∧ a.toNat < 26 then some (.power ⟨a.toNat - 8, by omega⟩)
  else none

/-- The address of a register (R26). -/
def Csr.addr : Csr → CsrAddr
  | .cfg => 0x00
  | .thresh => 0x01
  | .range => 0x02
  | .status => 0x03
  | .frames => 0x04
  | .symbol => 0x05
  | .onmask => 0x06
  | .power j => BitVec.ofNat 5 (8 + j.val)

end Sys2Proof.Machine
end

