-- ==== Sys2Proof/Machine/Flags.lean ====
section
/-! DEFINITION. The flags as software sees them: the `STATUS` view (R24) and the other read views (R25). TD18 has no
condition codes and no arithmetic flags (R20). -/

namespace Sys2Proof.Machine

/-- `PHASE` as its one bit (R12). -/
def Phase.bit : Phase → Bool
  | .idle => false
  | .run => true

/-- `STATUS` (R24): bit 0 `RUN`, 1 `EOSF`, 2 `MF`, 3 `CFGERR`, 4 `SEQERR`, 5 `ILLCMD`, 6 `SYMV`, 7 zero, 15..8 `CNT`,
31..16 zero. -/
def State.statusWord (s : State) : Word :=
  0#16 ++ BitVec.ofNat 8 s.cnt.val ++ 0#1 ++ BitVec.ofBool s.symv ++ BitVec.ofBool s.illcmd ++ BitVec.ofBool s.seqerr ++
    BitVec.ofBool s.cfgerr ++ BitVec.ofBool s.mf ++ BitVec.ofBool s.eosf ++ BitVec.ofBool s.phase.bit

/-- The value a read of a register returns (R21 to R25). -/
def State.readCsr (s : State) : Csr → Word
  | .cfg => 0#30 ++ s.enc
  | .thresh => s.thresh
  | .range => s.range
  | .status => s.statusWord
  | .frames => s.frames
  | .symbol => 0#27 ++ s.sym.code
  | .onmask => 0#14 ++ s.on
  | .power j => s.p[j]

end Sys2Proof.Machine
end

