-- ==== Sys2Proof/Machine/Ops.lean ====
section
/-! DEFINITION. The named operations over the frame buffer, the registers, the flags and the streams. Every meaning is
written over these. -/

namespace Sys2Proof.Machine

/-- The byte at address `a` of the frame buffer. -/
def Memory.read : Memory → Nat → Byte
  | [], _ => Memory.unlisted
  | c :: m, a => if c.1 = a then c.2 else Memory.read m a

/-- The entry for `b` at `a` put before `m`, or left out where it equals what an unlisted address reads as. -/
def Memory.cons (a : Nat) (b : Byte) (m : Memory) : Memory :=
  if b = Memory.unlisted then m else (a, b) :: m

/-- Storing `b` at `a`, keeping the canonical form. -/
def Memory.write : Memory → Nat → Byte → Memory
  | [], a, b => Memory.cons a b []
  | c :: m, a, b =>
    if a < c.1 then Memory.cons a b (c :: m)
    else if c.1 = a then Memory.cons a b m
    else c :: Memory.write m a b

/-- `MemRead(FB, i, 1)` (R31). -/
def State.fbRead (s : State) (i : Fin 240) : Byte := s.fb.read i.val

/-- `MemWrite(FB, i, 1, b)` (R31). -/
def State.fbWrite (s : State) (i : Fin 240) (b : Byte) : State := { s with fb := s.fb.write i.val b }

/-- The 240 bytes of the frame in index order (R31, R63). -/
@[irreducible] def Memory.frame (m : Memory) : List Byte := (List.range Config.frameLength).map m.read

/-- `raise <Flag>` (R118): set the flag, no other change. It is all there is of taking an error: no state is saved, no
control is transferred (R127), and nothing returns from it (R128). -/
def State.raise (s : State) : ErrFlag → State
  | .cfgerr => { s with cfgerr := true }
  | .seqerr => { s with seqerr := true }
  | .illcmd => { s with illcmd := true }

/-- `OUT.append(w)` (00_scope.md section 5). -/
def State.appendOut (s : State) (w : OutWord) : State := { s with out := s.out ++ [w] }

/-- `RSP.append(w)` (00_scope.md section 5). -/
def State.appendRsp (s : State) (w : Word) : State := { s with rsp := s.rsp ++ [w] }

/-- `CNT <- c`. -/
def State.setCnt (s : State) (c : Fin 240) : State := { s with cnt := c }

/-- `CNT + 1`, performed only when `CNT <= 238`, so it never wraps (R152 a); at 239 the frame is complete and `CNT`
returns to 0 (R56). -/
def cntSucc (c : Fin 240) : Fin 240 := if h : c.val < 239 then ⟨c.val + 1, by omega⟩ else 0

/-- What an accepted `START` writes (R55). -/
def State.openSession (s : State) : State :=
  { s with phase := .run, cnt := 0, mf := false, frames := 0, symv := false, eosf := false }

/-- What an accepted `EOS` writes to the registers (R58). -/
def State.closeSession (s : State) : State := { s with cnt := 0, phase := .idle, eosf := true }

/-- `P`, `ON`, `SYM`, `SYMV`, `MF` and `FRAMES` at the end of a frame (R57); the count is modulo 2^32 (R19). -/
def State.recordFrame (s : State) (p : Vector Word 18) (sym : Symbol) (on : BitVec 18) (mf : Bool) : State :=
  { s with p := p, on := on, sym := sym, symv := true, mf := mf, frames := s.frames + 1 }

/-- `ENC <- v[1:0]`, `v[31:2]` ignored (R104, R21). -/
def State.writeCfg (s : State) (v : Word) : State := { s with enc := v.extractLsb' 0 2 }

/-- `THRESH <- fromBits(v)`, stored bit for bit (R104, R22). -/
def State.writeThresh (s : State) (v : Word) : State := { s with thresh := v }

/-- `RANGE <- fromBits(v)`, stored bit for bit (R104, R23). -/
def State.writeRange (s : State) (v : Word) : State := { s with range := v }

/-- The pending host moves replaced (R30 d). -/
def State.setInputs (s : State) (l : List HostMove) : State := { s with inputs := l }

/-- The reset step (R53, R136): every register at its reset value, `FB` left as it is, the streams not touched. The
`RESET` command, the reset input and power-on are this one step (R137). -/
def State.resetRegisters (s : State) : State :=
  { State.reset with fb := s.fb, inputs := s.inputs, out := s.out, rsp := s.rsp }

/-- `bits(F(n/d))`: the image of a rational number rounded to the format (R49, R51). No such value is a NaN, so none
takes the free pattern. -/
def ratPattern {F : Type} (A : Format F) (n : Int) (d : Nat) : Word := A.bits 0#32 (A.ofRat n d)

/-- The registers that carry values of type `F` at their reset values in a number format: `P` the image of `+0.0`, and
the patterns of R22 and R23 replaced by `F(100)` and `F(1/10)` (R49). -/
def State.resetFormat {F : Type} (A : Format F) (s : State) : State :=
  { s with
    p := Vector.replicate 18 (A.bits 0#32 A.zero), thresh := ratPattern A 100 1, range := ratPattern A 1 10 }

end Sys2Proof.Machine
end

