-- ==== Sys2Proof/Machine/Registers.lean ====
section
/-! DEFINITION. The register access commands `WRCSR` and `RDCSR` (spec/43_csr_access.md R104, R105). -/

namespace Sys2Proof.Machine

/-- `WRCSR a, v` (R104): in `RUN` refused for every address, checked first; in `IDLE` the three writable registers are
written and every other address raises `ILLCMD`. -/
def execWrcsr (a : CsrAddr) (v : Word) (s : State) : Host.Outcome State Fault Refusal :=
  match s.phase with
  | .run => .next (s.raise .seqerr)
  | .idle =>
    match Csr.ofAddr a with
    | some .cfg => .next (s.writeCfg v)
    | some .thresh => .next (s.writeThresh v)
    | some .range => .next (s.writeRange v)
    | some .status | some .frames | some .symbol | some .onmask | some (.power _) | none => .next (s.raise .illcmd)

/-- `RDCSR a` (R105): exactly one word is appended to `RSP`; a reserved address answers 0 and then raises `ILLCMD`. -/
def execRdcsr (a : CsrAddr) (s : State) : Host.Outcome State Fault Refusal :=
  match Csr.ofAddr a with
  | some c => .next (s.appendRsp (s.readCsr c))
  | none => .next ((s.appendRsp 0#32).raise .illcmd)

end Sys2Proof.Machine
end

