-- ==== Sys2Proof/Machine/Reserved.lean ====
section
/-! DEFINITION. Words that are no command: the reserved opcode 6 of the table, and every other illegal word (R43,
R121). -/

namespace Sys2Proof.Machine

/-- An illegal word sets `ILLCMD` and has no other effect, in either phase (R43, R121). -/
def State.rejectWord (s : State) : State := s.raise .illcmd

/-- The reserved opcode 6, its 37 other bits ignored (R43). -/
def execReservedOp6 (_ : BitVec 37) (s : State) : Host.Outcome State Fault Refusal := .next s.rejectWord

end Sys2Proof.Machine
end

