-- ==== Sys2Proof/Machine/Classifier.lean ====
section
/-! DEFINITION. The Tone Classifier (spec/42_classifier.md R79 to R100), a function of its four operands (R80). -/

namespace Sys2Proof.Machine

/-- The results of `CLASSIFY`: symbol, on-vector, new `MF` (R79). -/
structure Verdict where
  sym : Symbol
  on : BitVec 18
  mf : Bool
  deriving DecidableEq, Repr

/-- `maxp`: the left fold from `p[0]` with strict greater-than (R81). -/
@[irreducible] def maxPower {F : Type} (A : Format F) (p : Vector F 18) : F :=
  (List.finRange 17).foldl (fun m i => if A.gt p[i.succ] m then p[i.succ] else m) p[0]

/-- The absolute floor (R82), strict. -/
def belowFloor {F : Type} (A : Format F) (maxp thresh : F) : Bool := A.lt maxp thresh

/-- `cutoff <- fmul(range, maxp)`, `RANGE` first (R83). -/
def cutoff {F : Type} (A : Format F) (range maxp : F) : F := A.mul range maxp

/-- Bin `i` is on when `fgt(p[i], cutoff)`, strictly (R84). Bit `j` is bin `j` (R48). -/
@[irreducible] def onVector {F : Type} (A : Format F) (p : Vector F 18) (c : F) : BitVec 18 := BitVec.ofFnLE fun j => A.gt p[j] c

/-- Bin `j` is in the on-set (R85). -/
def isOn (on : BitVec 18) (j : Bin) : Bool := on.getLsbD j.val

/-- `cnt` (SC's `onCount`): the size of the on-set, 0..18 (R85). -/
def onCount (on : BitVec 18) : Nat := (List.finRange 18).countP (isOn on)

/-- The indices `r` with `on[ROW[r]] = 1`, ascending (R92). -/
def rowsOn (on : BitVec 18) : List (Fin 4) := (List.finRange 4).filter fun r => isOn on (rowBin r)

/-- The indices `c` with `on[COL[c]] = 1`, ascending (R92). -/
def colsOn (on : BitVec 18) : List (Fin 4) := (List.finRange 4).filter fun c => isOn on (colBin c)

/-- The indices `m` with `on[MFB[m]] = 1`, ascending (R95). -/
def mfsOn (on : BitVec 18) : List (Fin 8) := (List.finRange 8).filter fun m => isOn on (mfBin m)

/-- The DTMF grid, entry at (row, column) (R93). -/
def dtmfGrid : Fin 4 → Fin 4 → Symbol :=
  ![![.d1, .d2, .d3, .la],
    ![.d4, .d5, .d6, .lb],
    ![.d7, .d8, .d9, .lc],
    ![.star, .d0, .hash, .ld]]

/-- `MFTAB[hi][lo]` (R96). The pairs with 2400 or 2600 Hz are Invalid, the dead entry (7, 6) among them; entries with
`lo >= hi` are never looked up (R95). -/
def mfTab : Fin 8 → Fin 8 → Symbol :=
  ![![.invalid, .invalid, .invalid, .invalid, .invalid, .invalid, .invalid, .invalid],
    ![.d1, .invalid, .invalid, .invalid, .invalid, .invalid, .invalid, .invalid],
    ![.d2, .d3, .invalid, .invalid, .invalid, .invalid, .invalid, .invalid],
    ![.d4, .d5, .d6, .invalid, .invalid, .invalid, .invalid, .invalid],
    ![.d7, .d8, .d9, .d0, .invalid, .invalid, .invalid, .invalid],
    ![.c11, .c12, .kp1, .kp2, .st, .invalid, .invalid, .invalid],
    ![.invalid, .invalid, .invalid, .invalid, .invalid, .invalid, .invalid, .invalid],
    ![.invalid, .invalid, .invalid, .invalid, .invalid, .invalid, .invalid, .invalid]]

/-- The call-progress pairs (R90). -/
def callProgress (on : BitVec 18) : Option Symbol :=
  if isOn on Bin.X1 && isOn on Bin.X2 then some .dialtone
  else if isOn on Bin.X2 && isOn on Bin.X3 then some .ring
  else if isOn on Bin.X3 && isOn on Bin.X4 then some .busy
  else none

/-- The supervisory pair (R91). -/
def supervisoryPair (on : BitVec 18) : Option Symbol :=
  if isOn on Bin.S2400 && isOn on Bin.S2600 then some .s2400x2600 else none

/-- The DTMF test (R92, R93). The cell (row 0, column 2) gives nothing inside an MF bracket (R94). -/
def dtmfTest (on : BitVec 18) (mf : Bool) : Option Symbol :=
  match rowsOn on, colsOn on with
  | [row], [col] => if row = 0 ∧ col = 2 ∧ mf = true then none else some (dtmfGrid row col)
  | _, _ => none

/-- The MF test (R95): exactly two MF bins on, `lo` the smaller and `hi` the larger index. -/
def mfTest (on : BitVec 18) : Option Symbol :=
  match mfsOn on with
  | [lo, hi] => some (mfTab hi lo)
  | _ => none

/-- The `MF` bit after the MF lookup returned `s` (R97). -/
def mfAfter (s : Symbol) (mf : Bool) : Bool :=
  if s = .kp1 ∨ s = .kp2 then true else if s = .st then false else mf

/-- One bin on (R88). -/
def decideSingle (on : BitVec 18) : Symbol :=
  if isOn on Bin.S2400 then .s2400 else if isOn on Bin.S2600 then .s2600 else .invalid

/-- Two bins on: the tests of R89 in order, the first that matches returns; otherwise Invalid (R98). -/
def decidePair (on : BitVec 18) (mf : Bool) : Symbol × Bool :=
  match callProgress on with
  | some s => (s, mf)
  | none =>
    match supervisoryPair on with
    | some s => (s, mf)
    | none =>
      match dtmfTest on mf with
      | some s => (s, mf)
      | none =>
        match mfTest on with
        | some s => (s, mfAfter s mf)
        | none => (.invalid, mf)

/-- The dispatch on the count (R86): 0 gives Silence (R87), 1 R88, 2 R89, more Invalid (R99). The result is the symbol
and the new `MF`. -/
def decideOnSet (on : BitVec 18) (mf : Bool) : Symbol × Bool :=
  if onCount on = 0 then (.silence, mf)
  else if onCount on = 1 then (decideSingle on, mf)
  else if onCount on = 2 then decidePair on mf
  else (.invalid, mf)

/-- `CLASSIFY(p, thresh, range, mf)` (R79). -/
@[irreducible] def classify {F : Type} (A : Format F) (p : Vector F 18) (thresh range : F) (mf : Bool) : Verdict :=
  let maxp := maxPower A p
  if belowFloor A maxp thresh then ⟨.silence, 0#18, mf⟩
  else
    let on := onVector A p (cutoff A range maxp)
    let r := decideOnSet on mf
    ⟨r.1, on, r.2⟩

end Sys2Proof.Machine
end

