-- ==== Sys2Proof/Machine/Estimator.lean ====
section
/-! DEFINITION. The Power Estimator: 18 independent Goertzel lanes over one frame (spec/41_estimator.md R63 to R68). -/

namespace Sys2Proof.Machine

/-- The two temporaries of a lane, `u0` and `u1`; dead at the end of the step (R27). -/
structure Lane (F : Type) where
  u0 : F
  u1 : F
  deriving DecidableEq, Repr

/-- Every lane starts at `+0.0` (R68). -/
def laneStart {F : Type} (A : Arith F) : Lane F := ⟨A.zero, A.zero⟩

/-- `t <- u0; u0 <- fsub(fadd(x, fmul(c, u0)), u1); u1 <- t` (R65). -/
def laneStep {F : Type} (A : Arith F) (c : F) (u : Lane F) (x : F) : Lane F :=
  ⟨A.sub (A.add x (A.mul c u.u0)) u.u1, u.u0⟩

/-- The samples taken in index order, the oldest first (R65). -/
def laneRun {F : Type} (A : Arith F) (c : F) (xs : List F) : Lane F := xs.foldl (laneStep A c) (laneStart A)

/-- `u0² + u1² − c·u0·u1`: six rounded operations in the order of R66. -/
def laneCombine {F : Type} (A : Arith F) (c : F) (u : Lane F) : F :=
  A.sub (A.add (A.mul u.u0 u.u0) (A.mul u.u1 u.u1)) (A.mul (A.mul c u.u0) u.u1)

/-- The power one lane gives for a list of normalised samples (R63). -/
def lanePower {F : Type} (A : Arith F) (c : F) (xs : List F) : F := laneCombine A c (laneRun A c xs)

/-- The normalised samples of a frame (R64). -/
def normFrame {F : Type} (A : Format F) (enc : BitVec 2) (frame : List Byte) : List F := frame.map (norm A enc)

/-- `ESTIMATE(frame, enc)` (R63): one power for every bin, every lane over the same samples with its own coefficient
(R67). -/
@[irreducible] def estimate {F : Type} (A : Format F) (frame : List Byte) (enc : BitVec 2) : Vector F 18 :=
  let xs := normFrame A enc frame
  Vector.ofFn fun j => lanePower A.toArith (coef A j) xs

end Sys2Proof.Machine
end

