-- ==== Sys2Proof/Machine/Segmenter.lean ====
section
/-! DEFINITION. The Frame Segmenter and the session commands `RESET`, `NOP`, `START`, `SAMPLE`, `EOS`
(spec/40_segmenter.md R52 to R62). -/

namespace Sys2Proof.Machine

/-- The powers of the frame in `FB` (R57, R63). -/
@[irreducible] def State.framePowers {F : Type} (A : Format F) (s : State) : Vector F 18 := estimate A s.fb.frame s.enc

/-- The verdict on powers under the state's `THRESH`, `RANGE` and `MF` (R57, R79). -/
@[irreducible] def State.verdictOn {F : Type} (A : Format F) (s : State) (p : Vector F 18) : Verdict :=
  classify A p (A.ofBits s.thresh) (A.ofBits s.range) s.mf

/-- The images `P` holds for powers (R49). A NaN, which never occurs (R72), has a free pattern (log 5). -/
@[irreducible] def State.powerBits {F : Type} (A : Format F) (s : State) (p : Vector F 18) : Vector Word 18 :=
  Vector.ofFn fun j => A.bits (Config.freeNaN s.frames j) p[j]

/-- The register updates and the one word of `FRAME_DONE`, given the images of the powers and the verdict (R57). -/
def State.finishFrame (s : State) (q : Vector Word 18) (v : Verdict) : State :=
  (s.recordFrame q v.sym v.on v.mf).appendOut (symbolWord v.sym)

/-- `FRAME_DONE` (R57): `ESTIMATE`, then `CLASSIFY`, then the updates, always all of them in that order (R153). -/
def State.frameDone {F : Type} (A : Format F) (s : State) : State :=
  s.finishFrame (s.powerBits A (s.framePowers A)) (s.verdictOn A (s.framePowers A))

/-- `RESET` (R53): accepted in every phase. -/
def execReset (s : State) : Host.Outcome State Fault Refusal := .next s.resetRegisters

/-- `NOP` (R54): nothing. -/
def execNop (s : State) : Host.Outcome State Fault Refusal := .next s

/-- `START` (R55): the phase is checked before the encoding (R125). -/
def execStart (s : State) : Host.Outcome State Fault Refusal :=
  match s.phase with
  | .run => .next (s.raise .seqerr)
  | .idle => if encSupported s.enc then .next s.openSession else .next (s.raise .cfgerr)

/-- An accepted `SAMPLE b` (R56): the byte is stored, and the 240th completes the frame. -/
def State.acceptSample {F : Type} (A : Format F) (s : State) (b : Byte) : State :=
  if s.cnt.val = 239 then ((s.fbWrite s.cnt b).setCnt 0).frameDone A
  else (s.fbWrite s.cnt b).setCnt (cntSucc s.cnt)

/-- `SAMPLE b` (R56) in a number format. -/
def execSampleIn {F : Type} (A : Format F) (b : Byte) (s : State) : Host.Outcome State Fault Refusal :=
  match s.phase with
  | .idle => .next (s.raise .seqerr)
  | .run => .next (s.acceptSample A b)

/-- `SAMPLE b` (R56), `FMT` at its default. -/
def execSample (b : Byte) (s : State) : Host.Outcome State Fault Refusal := execSampleIn fmt b s

/-- `EOS` (R58). -/
def execEos (s : State) : Host.Outcome State Fault Refusal :=
  match s.phase with
  | .idle => .next (s.raise .seqerr)
  | .run => .next (s.closeSession.appendOut endWord)

end Sys2Proof.Machine
end

