-- ==== Sys2Proof/Machine/Dispatch.lean ====
section
/-! DEFINITION. One arm per command (R42). -/

namespace Sys2Proof.Machine

def exec (i : Instr) (s : State) : Host.Outcome State Fault Refusal :=
  match i with
  | .nop => Sys2Proof.Machine.execNop s
  | .sample b => Sys2Proof.Machine.execSample b s
  | .eos => Sys2Proof.Machine.execEos s
  | .start => Sys2Proof.Machine.execStart s
  | .wrcsr a v => Sys2Proof.Machine.execWrcsr a v s
  | .rdcsr a => Sys2Proof.Machine.execRdcsr a s
  | .reset => Sys2Proof.Machine.execReset s
  | .reservedOp6 x => Sys2Proof.Machine.execReservedOp6 x s

end Sys2Proof.Machine
end

