-- ==== Sys2Proof/Machine/Command.lean ====
section
/-! DEFINITION. Taking the host's moves: one command word or one reset, as one atomic step (R9, R39, R137, R155). -/

namespace Sys2Proof.Machine

/-- How a command runs: `exec`, or `execIn` of a number format. -/
abbrev Runner := Instr → State → Host.Outcome State Fault Refusal

/-- The effect of one decoded word: a command runs, an illegal word raises `ILLCMD` and nothing further is looked at
(R125 first check). -/
def execDecodedBy (run : Runner) (d : Decoded) (s : State) : Host.Outcome State Fault Refusal :=
  match d with
  | .instr i => run i s
  | .illegal _ => .next s.rejectWord

/-- A run of R155: the members of a finite list, one after the other. -/
def runAll {α : Type} (run : α → State → Host.Outcome State Fault Refusal) :
    List α → State → Host.Outcome State Fault Refusal
  | [], s => .next s
  | x :: xs, s =>
    match run x s with
    | .next t => runAll run xs t
    | .fault r => .fault r
    | .refused r => .refused r

/-- Takes the oldest pending move; the reset input takes the step of `RESET` (R137). With none pending TD18 simply holds
its state, for any length of time (R135, R157). -/
def takeMoveBy (run : Runner) (s : State) : Host.Outcome State Fault Refusal :=
  match s.inputs with
  | [] => .next s
  | .command w :: rest => execDecodedBy run (decode w) (s.setInputs rest)
  | .resetInput :: rest => run .reset (s.setInputs rest)

/-- The effect of one decoded word, `FMT` at its default. -/
def execDecoded (d : Decoded) (s : State) : Host.Outcome State Fault Refusal := execDecodedBy exec d s

/-- The step function of R155 on one 40-bit word: decode, then execute to completion. -/
def execWord (w : CmdWord) (s : State) : Host.Outcome State Fault Refusal := execDecoded (decode w) s

/-- A run of R155: the words of a finite list, one after the other. -/
def runWords (ws : List CmdWord) (s : State) : Host.Outcome State Fault Refusal := runAll execWord ws s

/-- A run of commands already decoded. -/
def runInstrs (is : List Instr) (s : State) : Host.Outcome State Fault Refusal := runAll exec is s

/-- Takes the oldest pending move, `FMT` at its default. -/
def takeMove (s : State) : Host.Outcome State Fault Refusal := takeMoveBy exec s

/-- The host presents a command word (R9, R40). -/
def State.present (s : State) (w : CmdWord) : State := s.setInputs (s.inputs ++ [.command w])

/-- The host asserts and releases the reset input (R9, R137). -/
def State.assertReset (s : State) : State := s.setInputs (s.inputs ++ [.resetInput])

/-- The word of a table row's bits put first on the command stream. -/
def State.withWord (s : State) (w : CmdWord) : State := s.setInputs (.command w :: s.inputs)

end Sys2Proof.Machine
end

