-- ==== Sys2Proof/Machine/Step.lean ====
section
/-! DEFINITION. One step of the machine, and where its next command comes from. -/

namespace Sys2Proof.Machine

/-- One atomic step (R9, R155). -/
def step (s : State) : Host.Outcome State Fault Refusal := takeMove s

/-- `s` with the word `w` of `nbits` bits (bits above them 0) the next command of the stream. TD18 fetches nothing (R11):
the host presents each command (log 1). -/
def State.withFetchWord (s : State) (nbits w : Nat) : State := s.withWord (BitVec.ofNat 40 (w % 2 ^ nbits))

end Sys2Proof.Machine
end

