-- ==== Sys2Proof/Machine/Assembler.lean ====
section
/-! DEFINITION. The assembler syntax and the pseudo-instructions (spec/30_encoding.md R50, R51). -/

namespace Sys2Proof.Machine

/-- One hexadecimal digit, capital letters as R50 writes them. -/
def hexDigit (n : Nat) : Char := if n < 10 then Char.ofNat (48 + n) else Char.ofNat (55 + n)

/-- `k` hexadecimal digits of `n`, the most significant first. -/
def hexDigits : Nat → Nat → List Char
  | 0, _ => []
  | k + 1, n => hexDigits k (n / 16) ++ [hexDigit (n % 16)]

/-- A number in hexadecimal with `0x` (R50). -/
def hex (k n : Nat) : String := "0x" ++ String.ofList (hexDigits k n)

/-- The register's name (R26). -/
def Csr.name : Csr → String
  | .cfg => "CFG"
  | .thresh => "THRESH"
  | .range => "RANGE"
  | .status => "STATUS"
  | .frames => "FRAMES"
  | .symbol => "SYMBOL"
  | .onmask => "ONMASK"
  | .power j => "POWER" ++ toString j.val

/-- A register address as its name, or in hexadecimal where it is reserved (R50). -/
def addrText (a : CsrAddr) : String :=
  match Csr.ofAddr a with
  | some c => c.name
  | none => hex 2 a.toNat

/-- One line of assembler: the mnemonic, then the operands separated by commas (R50). The reserved opcode has no
syntax; its line is the word. -/
def asm : Instr → String
  | .nop => "NOP"
  | .sample b => "SAMPLE " ++ hex 2 b.toNat
  | .eos => "EOS"
  | .start => "START"
  | .wrcsr a v => "WRCSR " ++ addrText a ++ ", " ++ hex 8 v.toNat
  | .rdcsr a => "RDCSR " ++ addrText a
  | .reset => "RESET"
  | .reservedOp6 x => "(illegal) " ++ hex 10 (encode (.reservedOp6 x)).toNat

end Sys2Proof.Machine

namespace Sys2Proof

open Sys2Proof.Machine

/-- The fixed expansion of a pseudo-instruction (R51) in a number format. -/
def Pseudo.expandIn {F : Type} (A : Format F) : Pseudo → List Instr
  | .frame bytes => bytes.map Instr.sample
  | .samples bytes => bytes.map Instr.sample
  | .setencSigned => [.wrcsr Csr.cfg.addr 0]
  | .setencUnsigned => [.wrcsr Csr.cfg.addr 1]
  | .setthresh n d => [.wrcsr Csr.thresh.addr (ratPattern A n d)]
  | .setrange n d => [.wrcsr Csr.range.addr (ratPattern A n d)]
  | .session bytes => .start :: (bytes.map Instr.sample ++ [.eos])

/-- The expansion with `FMT` at its default. -/
def Pseudo.expand (p : Pseudo) : List Instr := p.expandIn fmt

end Sys2Proof
end

