-- ==== Sys2Proof/Machine/Formats.lean ====
section
/-! DEFINITION. The machine with the number format `FMT` as its argument (spec/00_scope.md R8, spec/30_encoding.md R49,
spec/92_eei_decisions.md D4). `exec`, `step` and `State.reset` are this machine at the default format (the laws
`execIn_fmt`, `stepIn_fmt`, `resetIn_fmt`). State is one type for every format: its registers carry the 32-bit images
the format defines. -/

namespace Sys2Proof.Machine

/-- The state after reset in a number format (R29, R49). -/
def State.resetIn {F : Type} (A : Format F) : State := State.reset.resetFormat A

/-- `RESET` (R53) in a number format. -/
def execResetIn {F : Type} (A : Format F) (s : State) : Host.Outcome State Fault Refusal :=
  .next (s.resetRegisters.resetFormat A)

/-- One command in a number format. Only the frame completion and the reset patterns look at the format. -/
def execIn {F : Type} (A : Format F) (i : Instr) (s : State) : Host.Outcome State Fault Refusal :=
  match i with
  | .nop => execNop s
  | .sample b => execSampleIn A b s
  | .eos => execEos s
  | .start => execStart s
  | .wrcsr a v => execWrcsr a v s
  | .rdcsr a => execRdcsr a s
  | .reset => execResetIn A s
  | .reservedOp6 x => execReservedOp6 x s

/-- The step function of R155 on one 40-bit word, in a number format. -/
def execWordIn {F : Type} (A : Format F) (w : CmdWord) (s : State) : Host.Outcome State Fault Refusal :=
  execDecodedBy (execIn A) (decode w) s

/-- A run of R155 in a number format. -/
def runWordsIn {F : Type} (A : Format F) (ws : List CmdWord) (s : State) : Host.Outcome State Fault Refusal :=
  runAll (execWordIn A) ws s

/-- One atomic step in a number format. -/
def stepIn {F : Type} (A : Format F) (s : State) : Host.Outcome State Fault Refusal := takeMoveBy (execIn A) s

/-- The machine of a number format, in the form of the host's interface. -/
def coreIn {F : Type} (A : Format F) : Host.Core where
  State := State
  Fault := Fault
  Refusal := Refusal
  step := stepIn A
  reset := State.resetIn A

end Sys2Proof.Machine
end

