-- ==== Sys2Proof/Machine/Formatter.lean ====
section
/-! DEFINITION. The Symbol Stream Formatter at the block's boundary (spec/44_formatter_boundary.md R108 to R116). It is
not part of TD18 (R3): a function of the `OUT` stream, with no place in State. -/

namespace Sys2Proof.Machine

/-- What the Formatter emits: a line break or a symbol's display text (R108). -/
inductive Token where
  | newline
  | symbol (s : Symbol)
  deriving DecidableEq, Repr

/-- A flush threshold the Formatter accepts: `FLUSH` is a positive integer (R115). -/
abbrev FlushCount := {n : Nat // 0 < n}

/-- A Formatter set up with its flush threshold (R115), and its state (R109): `last`, and the silence run counter, none
for the sentinel "counting suspended" that the spec writes -1. -/
structure Formatter where
  flush : FlushCount
  last : Symbol
  run : Option Nat
  deriving DecidableEq, Repr

/-- The defaults, set when a session starts (R109). -/
def Formatter.start (flush : FlushCount) : Formatter := ⟨flush, .silence, some 0⟩

/-- Setting the Formatter up, the only way to start one from an integer: a threshold that is not positive is refused
(R115). -/
def Formatter.setup (flush : Int := Config.flushDefault) : Option Formatter :=
  if h : 0 < flush then some (Formatter.start ⟨flush.toNat, by omega⟩) else none

/-- The symbols after which a new symbol is fresh: Silence, the supervisory and the call-progress codes (R111). -/
def Symbol.allowsEmission : Symbol → Bool
  | .silence | .s2400 | .s2600 | .s2400x2600 | .dialtone | .ring | .busy => true
  | .d0 | .d1 | .d2 | .d3 | .d4 | .d5 | .d6 | .d7 | .d8 | .d9 | .star | .hash | .la | .lb | .lc | .ld
  | .c11 | .c12 | .kp1 | .kp2 | .st | .invalid => false

/-- `PUSH(27)` (R110): while counting is active the run grows, and at the flush threshold one line break is emitted and
counting is suspended. -/
def Formatter.pushSilence (f : Formatter) : Formatter × List Token :=
  match f.run with
  | none => (⟨f.flush, .silence, none⟩, [])
  | some n =>
    if n + 1 = f.flush.val then (⟨f.flush, .silence, none⟩, [.newline]) else (⟨f.flush, .silence, some (n + 1)⟩, [])

/-- `PUSH(x)` for a tone (R111): the run counter restarts, and a symbol that differs from `last` is emitted where `last`
allows it. -/
def Formatter.pushTone (f : Formatter) (x : Symbol) : Formatter × List Token :=
  (⟨f.flush, x, some 0⟩, if x ≠ f.last ∧ f.last.allowsEmission then [.symbol x] else [])

/-- `PUSH` (R108): Silence by R110, Invalid is no observation (R113), every other symbol by R111. -/
def Formatter.push (f : Formatter) (x : Symbol) : Formatter × List Token :=
  if x = .silence then f.pushSilence
  else if x = .invalid then (f, [])
  else f.pushTone x

/-- `FINISH` (R114): always one trailing line break; the next session starts from the defaults (R109). -/
def Formatter.finish (f : Formatter) : Formatter × List Token := (Formatter.start f.flush, [.newline])

/-- A sequence of pushes. -/
def Formatter.pushAll : Formatter → List Symbol → Formatter × List Token
  | f, [] => (f, [])
  | f, x :: xs =>
    let r := f.push x
    let q := Formatter.pushAll r.1 xs
    (q.1, r.2 ++ q.2)

/-- The text of one session's symbols from a Formatter: the pushes, then `FINISH`. -/
def Formatter.sessionText (f : Formatter) (xs : List Symbol) : List Token :=
  let r := f.pushAll xs
  r.2 ++ r.1.finish.2

/-- One session of a Formatter set up with `flush`; none where the set-up refuses. -/
def Formatter.session (xs : List Symbol) (flush : Int := Config.flushDefault) : Option (List Token) :=
  (Formatter.setup flush).map fun f => f.sessionText xs

/-- One word of `OUT` (R108): the END word finishes the session. Two points are the model's choice (DESIGN CHOICE): a
word with `END` = 1 and `SYM` not 0, which U3 says is never produced, is taken as the END word (log 15), and a code that
is no symbol is ignored (U2, log 10). -/
def Formatter.word (f : Formatter) (w : OutWord) : Formatter × List Token :=
  if w.getLsbD 5 then f.finish
  else
    match Symbol.ofCode (w.extractLsb' 0 5) with
    | some x => f.push x
    | none => (f, [])

/-- The tokens a Formatter makes of a list of `OUT` words. A session that a `RESET` cut off has no END word, and R138
leaves it to the host to tell the Formatter. This function has no such input: the words after the cut go on with the
`last` and `run` of the session cut off (DESIGN CHOICE, log 16). A host that tells the Formatter gives the words of each
side of the cut to a Formatter of its own. -/
def Formatter.words : Formatter → List OutWord → List Token
  | _, [] => []
  | f, w :: ws =>
    let r := f.word w
    r.2 ++ Formatter.words r.1 ws

/-- The tokens a Formatter set up with `flush` makes of a stream of `OUT` words; none where the set-up refuses. A cut
session is treated as `Formatter.words` says (log 16). -/
def Formatter.stream (ws : List OutWord) (flush : Int := Config.flushDefault) : Option (List Token) :=
  (Formatter.setup flush).map fun f => f.words ws

/-- The display text (R116). Silence and Invalid are never emitted. -/
def Symbol.text : Symbol → String
  | .d0 => "0"
  | .d1 => "1"
  | .d2 => "2"
  | .d3 => "3"
  | .d4 => "4"
  | .d5 => "5"
  | .d6 => "6"
  | .d7 => "7"
  | .d8 => "8"
  | .d9 => "9"
  | .star => "*"
  | .hash => "#"
  | .la => "A"
  | .lb => "B"
  | .lc => "C"
  | .ld => "D"
  | .c11 => "+C11 "
  | .c12 => "+C12 "
  | .kp1 => " KP1+"
  | .kp2 => " KP2+"
  | .st => "+ST "
  | .s2400 => " 2400 "
  | .s2600 => " 2600 "
  | .s2400x2600 => " 2400+2600 "
  | .dialtone => " DIALTONE "
  | .ring => " RING "
  | .busy => " BUSY "
  | .silence => ""
  | .invalid => ""

/-- The text of a token. -/
def Token.text : Token → String
  | .newline => "\n"
  | .symbol s => s.text

/-- The text of a token list. -/
def Formatter.render (ts : List Token) : String := String.join (ts.map Token.text)

end Sys2Proof.Machine
end

