-- ==== Sys2Proof/Safety.lean ====
section
/-! DEFINITION. The predicates claims are stated in: the launch premises of R157, the invariant of the machine, and the
relation of states no run can tell apart (R156). -/

namespace Sys2Proof.Machine

/-- The registers are those of the table of R29, `FB` free; the streams are the environment's (R157 `AfterReset`). -/
def State.AfterReset (s : State) : Prop :=
  s = { State.reset with fb := s.fb, inputs := s.inputs, out := s.out, rsp := s.rsp }

/-- `PHASE = IDLE` (R157). -/
def State.Idle (s : State) : Prop := s.phase = .idle

/-- `CFGERR = SEQERR = ILLCMD = 0` (R157). A run that decoded a signal takes this of its last state (R156). -/
def State.NoErrors (s : State) : Prop := s.cfgerr = false ∧ s.seqerr = false ∧ s.illcmd = false

/-- The reset configuration (R157). -/
def State.DefaultConfig (s : State) : Prop :=
  s.enc = 0#2 ∧ s.thresh = Config.threshReset ∧ s.range = Config.rangeReset

/-- A word `OUT` may hold: `{0, s}` for a symbol, or the END word (R44). -/
def LegalOutWord (w : OutWord) : Prop := w = endWord ∨ ∃ x : Symbol, w = symbolWord x

/-- The invariant of the machine. -/
structure State.Inv (s : State) : Prop where
  /-- `FB` keeps its canonical form, addresses 0..239 (R31). -/
  fbWf : s.fb.wf
  /-- A session is open only under a supported encoding (R55, R122). -/
  encOk : s.phase = .run → encSupported s.enc = true
  /-- A partial frame exists only inside a session (R55, R58). -/
  cntIdle : s.phase = .idle → s.cnt = 0
  /-- An open session has not been closed (R20). -/
  eosfIdle : s.phase = .run → s.eosf = false
  /-- Frames counted and an MF bracket belong to a session that has completed a frame (R15, R18, R19). -/
  symvFrames : s.symv = false → s.frames = 0 ∧ s.mf = false
  /-- `SYM` is the symbol of the on-set `ON` shows: never the symbol of one frame with the on-set of another (R37,
  R103). -/
  symOfOn : ∃ mf, s.sym = (decideOnSet s.on mf).1
  /-- Every word on `OUT` is `{0, s}` with a symbol code, or the END word (R44). -/
  outLegal : ∀ w ∈ s.out, LegalOutWord w

/-- A state that some run reaches: from reset, by the host's moves and the machine's steps. -/
inductive State.Reachable : State → Prop
  | reset : State.Reachable State.reset
  | present {s : State} (w : CmdWord) : State.Reachable s → State.Reachable (s.present w)
  | assertReset {s : State} : State.Reachable s → State.Reachable s.assertReset
  | step {s t : State} : State.Reachable s → step s = .next t → State.Reachable t

/-- Two states that differ at most in what `FB` holds at the positions the current frame has not filled: "Two states
that differ only in `FB[CNT..239]` ... are indistinguishable by every run" (R156). -/
def State.SameButUnfilled (s t : State) : Prop :=
  t = { s with fb := t.fb } ∧ ∀ i, i < s.cnt.val → s.fb.read i = t.fb.read i

/-- Exactly the two bins `a` and `b` on. -/
def pairMask (a b : Bin) : BitVec 18 := BitVec.twoPow 18 a.val ||| BitVec.twoPow 18 b.val

/-- The 34 two-bin on-sets that are not Invalid, with the symbol for `mf = 0` (R103). -/
def pairTable : List (Bin × Bin × Symbol) :=
  [(0, 1, .dialtone), (1, 2, .ring), (2, 3, .busy),
   (4, 7, .d1), (4, 9, .d2), (4, 10, .d1), (4, 11, .d4), (4, 12, .d2), (4, 13, .d3), (4, 14, .la), (4, 15, .c11),
   (5, 10, .d4), (5, 12, .d5), (5, 13, .d6), (5, 14, .lb),
   (6, 10, .d7), (6, 12, .d8), (6, 13, .d9), (6, 14, .lc),
   (7, 9, .d3), (7, 11, .d5), (7, 13, .d8), (7, 15, .c12),
   (8, 10, .star), (8, 12, .d0), (8, 13, .hash), (8, 14, .ld),
   (9, 11, .d6), (9, 13, .d9), (9, 15, .kp1),
   (11, 13, .d0), (11, 15, .kp2), (13, 15, .st), (16, 17, .s2400x2600)]

/-- The symbol the table of R103 gives a pair `a < b`: the one cell that depends on `mf` is {4, 13}, and a pair that is
not listed is Invalid. -/
def pairSymbol (a b : Bin) (mf : Bool) : Symbol :=
  if a = 4 ∧ b = 13 ∧ mf = true then .d7
  else
    match pairTable.find? (fun r => r.1 == a && r.2.1 == b) with
    | some r => r.2.2
    | none => .invalid

end Sys2Proof.Machine
end

