-- ==== Sys2Proof/Certificates/Slice0/Obligations.lean ====
section
/-! DEFINITION. The statements about TD18, for the provers. Each docstring names the rule or section it rests on. -/

open Sys2Proof Sys2Proof.Machine

/-! ### Encoding -/

/-- Words written out from the table of R42, and the examples of R50. -/
def Obligations.WrittenWordsDecode : Prop :=
  decode 0x0000000000#40 = .instr .nop ∧
  decode 0x200000007F#40 = .instr (.sample 0x7F#8) ∧
  decode 0x4000000000#40 = .instr .eos ∧
  decode 0x6000000000#40 = .instr .start ∧
  decode 0x8142C80000#40 = .instr (.wrcsr 0x01#5 0x42C80000#32) ∧
  decode 0xB900000000#40 = .instr (.rdcsr 0x19#5) ∧
  decode 0xE000000000#40 = .instr .reset ∧
  decode 0xC000000000#40 = .instr (.reservedOp6 0#37) ∧
  decode 0xE000000001#40 = .illegal .strayReset

/-- Every instruction, with every operand at every value, decodes from its own word (R41, R42). -/
def Obligations.DecodingAnEncodedCommand : Prop :=
  ∀ i : Instr, decode (encode i) = .instr i

/-- Each instruction has one word: a word that decodes to it is the word the encoder gives (R42; D10 "a bijection").
-/
def Obligations.EncodingADecodedWord : Prop :=
  ∀ (w : CmdWord) (i : Instr), decode w = .instr i → encode i = w

/-- The `match` and `mask` columns of R42 and the opcode table: a word matches a row exactly when it decodes to that
row's command, and no word matches two rows. -/
def Obligations.TableRowsSelectTheirCommand : Prop :=
  (∀ r ∈ opcodeRows, ∀ w : CmdWord, w &&& r.mask = r.pattern ↔ ∃ i, decode w = .instr i ∧ i.mnemonic = r.mnemonic) ∧
  (∀ r ∈ opcodeRows, ∀ r' ∈ opcodeRows, ∀ w : CmdWord, w &&& r.mask = r.pattern → w &&& r'.mask = r'.pattern → r = r')

/-- R43: which words are illegal, and that an illegal word sets `ILLCMD` and has no other effect. -/
def Obligations.IllegalWordsAreDropped : Prop :=
  ∀ (w : CmdWord) (s : State),
    let op := w.extractLsb' 37 3
    let a := w.extractLsb' 32 5
    let d := w.extractLsb' 0 32
    let illegal := op = 6#3 ∨ ((op = 0#3 ∨ op = 2#3 ∨ op = 3#3 ∨ op = 7#3) ∧ (a ≠ 0 ∨ d ≠ 0)) ∨
      (op = 1#3 ∧ (a ≠ 0 ∨ d.extractLsb' 8 24 ≠ 0)) ∨ (op = 5#3 ∧ d ≠ 0)
    (illegal → execWord w s = .next { s with illcmd := true }) ∧
    (¬ illegal → ∃ i, i.isCommand = true ∧ decode w = .instr i)

/-! ### The step -/

/-- A step runs the command presented: the oldest pending word is taken off the stream and executed; a word that is no
command sets `ILLCMD` (R9; the spec derives R39 and R155). -/
def Obligations.StepRunsThePresentedCommand : Prop :=
  ∀ (s : State) (w : CmdWord) (rest : List HostMove), s.inputs = .command w :: rest →
    (∀ i, decode w = .instr i → step s = exec i { s with inputs := rest }) ∧
    (∀ r, decode w = .illegal r → step s = .next { s with inputs := rest, illcmd := true })

/-- The reset input takes the step the `RESET` command takes (R137; one atomic move, log 9). -/
def Obligations.StepTakesTheResetInput : Prop :=
  ∀ (s : State) (rest : List HostMove),
    step { s with inputs := .resetInput :: rest } = exec .reset { s with inputs := rest } ∧
    step { s with inputs := .resetInput :: rest } = step { s with inputs := .command 0xE000000000#40 :: rest }

/-- With no command presented TD18 holds its state (R135; that a step then answers the same state is log 8). -/
def Obligations.StepHoldsStateWithoutCommand : Prop :=
  ∀ s : State, s.inputs = [] → step s = .next s

/-- The step is total, and appends at most one word to each stream, changing none already there (R145; the spec
derives R155). -/
def Obligations.EveryStepAnswersNext : Prop :=
  ∀ s : State, ∃ (t : State) (ow : List OutWord) (rw : List Word),
    step s = .next t ∧ t.out = s.out ++ ow ∧ t.rsp = s.rsp ++ rw ∧ ow.length ≤ 1 ∧ rw.length ≤ 1

/-- The reset state meets the invariant. -/
def Obligations.ResetMeetsTheInvariant : Prop := State.reset.Inv

/-- Every step keeps the invariant, which is the model's own reading of the rules named: the frame buffer's canonical
form (R31), a supported encoding in every open session (R122), no partial frame outside one (R58), `SYM` never the
symbol of another frame than `ON` (R37), only legal words on `OUT` (R44). -/
def Obligations.StepKeepsTheInvariant : Prop :=
  ∀ s t : State, s.Inv → step s = .next t → t.Inv

/-! ### The commands -/

/-- R54, with its encoding. -/
def Obligations.NopLeavesStateUnchanged : Prop :=
  encode .nop = 0x0000000000#40 ∧ ∀ s : State, exec .nop s = .next s

/-- R53: the registers of the reset table, `FB` and the streams as they were, from every state; the reset input takes
the same step, and the power-on state is one it leaves as it is. -/
def Obligations.ResetWritesTheResetTable : Prop :=
  encode .reset = 0xE000000000#40 ∧
  (∀ s : State, exec .reset s = .next
    { s with
      phase := .idle, cnt := 0, mf := false, p := Vector.replicate 18 0x00000000#32, on := 0#18, sym := .silence,
      symv := false, frames := 0#32, eosf := false, cfgerr := false, seqerr := false, illcmd := false, enc := 0#2,
      thresh := 0x42C80000#32, range := 0x3DCCCCCD#32 }) ∧
  (∀ (s : State) (rest : List HostMove),
    step { s with inputs := .resetInput :: rest } = exec .reset { s with inputs := rest }) ∧
  exec .reset State.reset = .next State.reset

/-- R55, with its encoding. -/
def Obligations.StartOpensOrRefuses : Prop :=
  encode .start = 0x6000000000#40 ∧
  ∀ s : State,
    (s.phase = .idle → s.enc = 0#2 ∨ s.enc = 1#2 → exec .start s = .next
      { s with phase := .run, cnt := 0, mf := false, frames := 0#32, symv := false, eosf := false }) ∧
    (s.phase = .idle → s.enc = 2#2 ∨ s.enc = 3#2 → exec .start s = .next { s with cfgerr := true }) ∧
    (s.phase = .run → exec .start s = .next { s with seqerr := true })

/-- R56 and R57, with the encoding. A power that is a NaN, which R72 says never occurs, has a free pattern (log 5);
the statement holds for every value of it. -/
def Obligations.SampleStoresOrCompletesTheFrame : Prop :=
  ∀ (s : State) (b : Byte),
    (encode (.sample b)).toNat = 0x2000000000 + b.toNat ∧
    (s.phase = .idle → exec (.sample b) s = .next { s with seqerr := true }) ∧
    (∀ h : s.cnt.val < 239, s.phase = .run →
      exec (.sample b) s = .next { s with fb := s.fb.write s.cnt.val b, cnt := ⟨s.cnt.val + 1, by omega⟩ }) ∧
    (s.phase = .run → s.cnt.val = 239 →
      let fb := s.fb.write 239 b
      let p := estimate fmt fb.frame s.enc
      let v := classify fmt p (B32.ofBits s.thresh) (B32.ofBits s.range) s.mf
      ∃ q : Vector Word 18, (∀ j : Fin 18, ∃ free, q[j] = (p[j]).toBits free) ∧
        exec (.sample b) s = .next
          { s with
            fb := fb, cnt := 0, p := q, on := v.on, sym := v.sym, symv := true, mf := v.mf, frames := s.frames + 1,
            out := s.out ++ [0#1 ++ v.sym.code] })

/-- R58, with its encoding. -/
def Obligations.EosClosesTheSession : Prop :=
  encode .eos = 0x4000000000#40 ∧
  ∀ s : State,
    (s.phase = .run → exec .eos s = .next { s with cnt := 0, phase := .idle, eosf := true, out := s.out ++ [0x20#6] }) ∧
    (s.phase = .idle → exec .eos s = .next { s with seqerr := true })

/-- R104, with its encoding. -/
def Obligations.WrcsrWritesConfiguration : Prop :=
  ∀ (s : State) (a : CsrAddr) (v : Word),
    (encode (.wrcsr a v)).toNat = 0x8000000000 + a.toNat * 2 ^ 32 + v.toNat ∧
    (s.phase = .run → exec (.wrcsr a v) s = .next { s with seqerr := true }) ∧
    (s.phase = .idle → a = 0x00#5 → exec (.wrcsr a v) s = .next { s with enc := v.extractLsb' 0 2 }) ∧
    (s.phase = .idle → a = 0x01#5 → exec (.wrcsr a v) s = .next { s with thresh := v }) ∧
    (s.phase = .idle → a = 0x02#5 → exec (.wrcsr a v) s = .next { s with range := v }) ∧
    (s.phase = .idle → 3 ≤ a.toNat → exec (.wrcsr a v) s = .next { s with illcmd := true })

/-- R105, with its encoding and the values of R21 to R25 (`STATUS` as `State.statusWord`, whose bits `StatusViewBits`
states). -/
def Obligations.RdcsrAnswersOneWord : Prop :=
  ∀ (s : State) (a : CsrAddr),
    let answer := fun w : Word => ({ s with rsp := s.rsp ++ [w] } : State)
    (encode (.rdcsr a)).toNat = 0xA000000000 + a.toNat * 2 ^ 32 ∧
    (a = 0x00#5 → exec (.rdcsr a) s = .next (answer (s.enc.setWidth 32))) ∧
    (a = 0x01#5 → exec (.rdcsr a) s = .next (answer s.thresh)) ∧
    (a = 0x02#5 → exec (.rdcsr a) s = .next (answer s.range)) ∧
    (a = 0x03#5 → exec (.rdcsr a) s = .next (answer s.statusWord)) ∧
    (a = 0x04#5 → exec (.rdcsr a) s = .next (answer s.frames)) ∧
    (a = 0x05#5 → exec (.rdcsr a) s = .next (answer (s.sym.code.setWidth 32))) ∧
    (a = 0x06#5 → exec (.rdcsr a) s = .next (answer (s.on.setWidth 32))) ∧
    (∀ j : Fin 18, a.toNat = 8 + j.val → exec (.rdcsr a) s = .next (answer s.p[j])) ∧
    (a = 0x07#5 ∨ 26 ≤ a.toNat →
      exec (.rdcsr a) s = .next { s with rsp := s.rsp ++ [0x00000000#32], illcmd := true })

/-- The reserved opcode 6 in either phase, whatever its other bits (R43, R121). -/
def Obligations.ReservedOpcodeIsDropped : Prop :=
  ∀ (x : BitVec 37) (s : State), exec (.reservedOp6 x) s = .next { s with illcmd := true }

/-- R24: every bit of `STATUS`, its address, and that it is read only. -/
def Obligations.StatusViewBits : Prop :=
  Csr.ofAddr 0x03#5 = some .status ∧ State.reset.readCsr .status = 0x00000000#32 ∧
  ∀ s : State,
    let w := s.readCsr .status
    (w.getLsbD 0 = true ↔ s.phase = .run) ∧
    w.getLsbD 1 = s.eosf ∧
    w.getLsbD 2 = s.mf ∧
    w.getLsbD 3 = s.cfgerr ∧
    w.getLsbD 4 = s.seqerr ∧
    w.getLsbD 5 = s.illcmd ∧
    w.getLsbD 6 = s.symv ∧
    w.getLsbD 7 = false ∧
    (w.extractLsb' 8 8).toNat = s.cnt.val ∧
    w.extractLsb' 16 16 = 0#16 ∧
    ∀ v : Word,
      exec (.wrcsr 0x03#5 v) s = .next { s with illcmd := true } ∨
      exec (.wrcsr 0x03#5 v) s = .next { s with seqerr := true }

/-- The map of R26: every register at its own address, and exactly `0x07` and `0x1A`..`0x1F` reserved. -/
def Obligations.RegisterMapIsOneToOne : Prop :=
  (∀ c : Csr, Csr.ofAddr c.addr = some c) ∧
  (∀ (a : CsrAddr) (c : Csr), Csr.ofAddr a = some c → c.addr = a) ∧
  (∀ a : CsrAddr, Csr.ofAddr a = none ↔ a = 0x07#5 ∨ 26 ≤ a.toNat)

/-! ### Errors -/

/-- R120: the four events that raise `SEQERR`, what they do, and that nothing else raises it. -/
def Obligations.SequenceErrorsExactly : Prop :=
  ∀ (w : CmdWord) (s : State),
    let event := (s.phase = .idle ∧ ((∃ b, decode w = .instr (.sample b)) ∨ decode w = .instr .eos)) ∨
      (s.phase = .run ∧ (decode w = .instr .start ∨ ∃ a v, decode w = .instr (.wrcsr a v)))
    (event → execWord w s = .next { s with seqerr := true }) ∧
    (∀ t, execWord w s = .next t → s.seqerr = false → t.seqerr = true → event)

/-- R121: the three events that raise `ILLCMD`, what they do, and that nothing else raises it. -/
def Obligations.IllegalCommandErrorsExactly : Prop :=
  ∀ (w : CmdWord) (s : State),
    let undecodable := ∀ i, decode w = .instr i → i.isCommand = false
    let badWrite := s.phase = .idle ∧ ∃ a v, decode w = .instr (.wrcsr a v) ∧ a ≠ 0x00#5 ∧ a ≠ 0x01#5 ∧ a ≠ 0x02#5
    let badRead := ∃ a, decode w = .instr (.rdcsr a) ∧ (a = 0x07#5 ∨ 26 ≤ a.toNat)
    (undecodable ∨ badWrite → execWord w s = .next { s with illcmd := true }) ∧
    (badRead → execWord w s = .next { s with rsp := s.rsp ++ [0x00000000#32], illcmd := true }) ∧
    (∀ t, execWord w s = .next t → s.illcmd = false → t.illcmd = true → undecodable ∨ badWrite ∨ badRead)

/-- R122: the one event that raises `CFGERR`, what it does, and that nothing else raises it. -/
def Obligations.ConfigurationErrorsExactly : Prop :=
  ∀ (w : CmdWord) (s : State),
    let event := decode w = .instr .start ∧ s.phase = .idle ∧ (s.enc = 2#2 ∨ s.enc = 3#2)
    (event → execWord w s = .next { s with cfgerr := true }) ∧
    (∀ t, execWord w s = .next t → s.cfgerr = false → t.cfgerr = true → event)

/-- R128: the error flags stay set through every command but `RESET`, which clears all three, and change the behaviour
of no command: with other values of the flags a command does the same to everything else (`RDCSR STATUS` apart, whose
answer shows them). -/
def Obligations.OnlyResetClearsErrorFlags : Prop :=
  (∀ (w : CmdWord) (s t : State), execWord w s = .next t →
    (decode w ≠ .instr .reset →
      (s.cfgerr = true → t.cfgerr = true) ∧ (s.seqerr = true → t.seqerr = true) ∧ (s.illcmd = true → t.illcmd = true)) ∧
    (decode w = .instr .reset → t.cfgerr = false ∧ t.seqerr = false ∧ t.illcmd = false)) ∧
  (∀ (i : Instr) (s t : State) (c q l : Bool), i ≠ .rdcsr 0x03#5 → exec i s = .next t →
    ∃ c' q' l', exec i { s with cfgerr := c, seqerr := q, illcmd := l } =
      .next { t with cfgerr := c', seqerr := q', illcmd := l' })

/-! ### Whole-machine rules -/

/-- R142: while a session is open a `WRCSR` is refused, and no word changes the configuration except `RESET`, which
closes the session; the session a later `START` opens is aligned and outside any bracket. -/
def Obligations.ConfigurationFrozenInSession : Prop :=
  ∀ (w : CmdWord) (s t : State), execWord w s = .next t →
    (s.phase = .run →
      ((∃ a v, decode w = .instr (.wrcsr a v)) → t = { s with seqerr := true }) ∧
      ((t.enc = s.enc ∧ t.thresh = s.thresh ∧ t.range = s.range) ∨ (decode w = .instr .reset ∧ t.phase = .idle))) ∧
    (s.phase = .idle → t.phase = .run → decode w = .instr .start ∧ t.cnt = 0 ∧ t.mf = false ∧
      t.enc = s.enc ∧ t.thresh = s.thresh ∧ t.range = s.range)

/-- R11: `PHASE` and `CNT` are changed by no command other than `RESET`, `START`, `SAMPLE` and `EOS`, and `CNT` counts
up by one or returns to 0. -/
def Obligations.SequencingStateMovesOnlyByItsCommands : Prop :=
  ∀ (w : CmdWord) (s t : State), execWord w s = .next t →
    (t.phase ≠ s.phase ∨ t.cnt ≠ s.cnt →
      decode w = .instr .reset ∨ decode w = .instr .start ∨ (∃ b, decode w = .instr (.sample b)) ∨
        decode w = .instr .eos) ∧
    (t.cnt = s.cnt ∨ t.cnt = 0 ∨ t.cnt.val = s.cnt.val + 1)

/-- R15: `MF` is 1 after a frame classified KP1 or KP2, 0 after a frame classified ST, an accepted `START` or a
`RESET`, and otherwise as it was; 0 at reset, and bit 2 of `STATUS`. -/
def Obligations.MfMovesOnlyByItsRule : Prop :=
  State.reset.mf = false ∧
  ∀ (w : CmdWord) (s t : State), execWord w s = .next t →
    let frame := (∃ b, decode w = .instr (.sample b)) ∧ s.phase = .run ∧ s.cnt.val = 239
    let opened := decode w = .instr .start ∧ s.phase = .idle ∧ t.phase = .run
    (s.statusWord.getLsbD 2 = s.mf) ∧
    (frame → t.sym = .kp1 ∨ t.sym = .kp2 → t.mf = true) ∧
    (frame → t.sym = .st → t.mf = false) ∧
    (opened ∨ decode w = .instr .reset → t.mf = false) ∧
    (¬ (frame ∧ (t.sym = .kp1 ∨ t.sym = .kp2 ∨ t.sym = .st)) → ¬ opened → decode w ≠ .instr .reset → t.mf = s.mf)

/-- R44: exactly one word per completed frame, `{0, s}` with the frame's symbol, `FRAMES` counting it; the END word on an
accepted `EOS`; no other word. R47: the 29 symbols and their codes, none of them 28 to 30. -/
def Obligations.OutWordsOnlyFromFramesAndEos : Prop :=
  let codes : List (Symbol × BitVec 5) :=
    [(.d0, 0), (.d1, 1), (.d2, 2), (.d3, 3), (.d4, 4), (.d5, 5), (.d6, 6), (.d7, 7), (.d8, 8), (.d9, 9), (.star, 10),
     (.hash, 11), (.la, 12), (.lb, 13), (.lc, 14), (.ld, 15), (.c11, 16), (.c12, 17), (.kp1, 18), (.kp2, 19), (.st, 20),
     (.s2400, 21), (.s2600, 22), (.s2400x2600, 23), (.dialtone, 24), (.ring, 25), (.busy, 26), (.silence, 27),
     (.invalid, 31)]
  (∀ r ∈ codes, r.1.code = r.2) ∧ (∀ x : Symbol, ∃ r ∈ codes, r.1 = x) ∧
  (∀ x : Symbol, x.code ≠ 28#5 ∧ x.code ≠ 29#5 ∧ x.code ≠ 30#5) ∧
  ∀ (w : CmdWord) (s t : State), execWord w s = .next t →
    (s.phase = .run → (∃ b, decode w = .instr (.sample b)) → s.cnt.val = 239 →
      t.out = s.out ++ [0#1 ++ t.sym.code] ∧ t.frames = s.frames + 1) ∧
    (s.phase = .run → decode w = .instr .eos → t.out = s.out ++ [0x20#6] ∧ t.frames = s.frames) ∧
    (¬ (s.phase = .run ∧ ((∃ b, decode w = .instr (.sample b)) ∧ s.cnt.val = 239 ∨ decode w = .instr .eos)) →
      t.out = s.out ∧ (t.frames = s.frames ∨
        t.frames = 0#32 ∧ (decode w = .instr .start ∨ decode w = .instr .reset)))

/-- R45: exactly one `RSP` word per legal `RDCSR`, and nothing else appends to `RSP`. -/
def Obligations.ResponsesOnlyFromRdcsr : Prop :=
  ∀ (w : CmdWord) (s t : State), execWord w s = .next t →
    (∀ a, decode w = .instr (.rdcsr a) →
      t.rsp = s.rsp ++ [match Csr.ofAddr a with | some c => s.readCsr c | none => 0#32]) ∧
    ((∀ a, decode w ≠ .instr (.rdcsr a)) → t.rsp = s.rsp)

/-- The frame of the buffer: an accepted `SAMPLE b` stores `b` at `CNT` and every other byte reads as before; every
other word leaves every byte as it was (R31; the spec derives R154). -/
def Obligations.OnlySampleWritesTheBuffer : Prop :=
  ∀ (w : CmdWord) (s t : State), s.fb.wf → execWord w s = .next t →
    (∀ b, decode w = .instr (.sample b) → s.phase = .run →
      t.fb.read s.cnt.val = b ∧ ∀ a, a ≠ s.cnt.val → t.fb.read a = s.fb.read a) ∧
    (¬ (s.phase = .run ∧ ∃ b, decode w = .instr (.sample b)) → ∀ a, t.fb.read a = s.fb.read a)

/-! ### Frames and sessions -/

/-- R36: sample `s` of a session is stored in `FB[s mod 240]`, here for the samples of a partial frame. -/
def Obligations.SamplesFillTheFrameInOrder : Prop :=
  ∀ (s : State) (bs : List Byte), s.phase = .run → s.cnt = 0 → s.fb.wf → bs.length < 240 →
    ∃ t, runInstrs (bs.map Instr.sample) s = .next t ∧ t.cnt.val = bs.length ∧
      (∀ i (h : i < bs.length), t.fb.read i = bs[i]) ∧
      t = { s with fb := t.fb, cnt := t.cnt }

/-- R57 over a whole frame: 240 samples from a frame boundary are estimated and classified as that frame, in that
order, and nothing of the buffer's earlier contents matters. -/
def Obligations.FrameOfSamplesIsClassified : Prop :=
  ∀ (s : State) (bs : List Byte), s.phase = .run → s.cnt = 0 → s.fb.wf → bs.length = 240 →
    let p := estimate fmt bs s.enc
    let v := classify fmt p (B32.ofBits s.thresh) (B32.ofBits s.range) s.mf
    ∃ t, runInstrs (bs.map Instr.sample) s = .next t ∧
      t = { s with
            fb := t.fb, p := t.p, on := v.on, sym := v.sym, symv := true, mf := v.mf, frames := s.frames + 1,
            out := s.out ++ [symbolWord v.sym] } ∧
      (∀ j : Fin 18, ∃ free, t.p[j] = (p[j]).toBits free)

/-- R60 (the spec derives it): a session of `L` accepted samples appends `floor(L / 240)` symbol words and one END
word, and counts as many frames. -/
def Obligations.SessionTruncatesToWholeFrames : Prop :=
  ∀ (s : State) (bs : List Byte), s.phase = .idle → encSupported s.enc = true →
    ∃ (t : State) (syms : List Symbol),
      runInstrs (.start :: (bs.map Instr.sample ++ [.eos])) s = .next t ∧
      syms.length = bs.length / 240 ∧
      t.out = s.out ++ (syms.map symbolWord ++ [endWord]) ∧
      t.frames = BitVec.ofNat 32 (bs.length / 240) ∧
      t.phase = .idle ∧ t.cnt = 0 ∧ t.eosf = true ∧ (t.symv = true ↔ 240 ≤ bs.length)

/-- R156 (the spec derives it): two states that differ only in `FB[CNT..239]` are indistinguishable by every run. -/
def Obligations.UnfilledBufferIsUnobservable : Prop :=
  ∀ (ws : List CmdWord) (s t s' : State), s.fb.wf → t.fb.wf → s.SameButUnfilled t → runWords ws s = .next s' →
    ∃ t', runWords ws t = .next t' ∧ t'.out = s'.out ∧ t'.rsp = s'.rsp ∧ s'.SameButUnfilled t'

/-- R62 (the spec derives it): a session's `OUT` words are what a fresh instance with the same configuration produces
for the same samples, whatever earlier sessions left. -/
def Obligations.SessionsAreIndependent : Prop :=
  ∀ (s : State) (bs : List Byte), s.phase = .idle → encSupported s.enc = true → s.fb.wf →
    let session := Instr.start :: (bs.map Instr.sample ++ [.eos])
    let fresh := { State.reset with enc := s.enc, thresh := s.thresh, range := s.range }
    ∃ (t u : State), runInstrs session s = .next t ∧ runInstrs session fresh = .next u ∧ t.out = s.out ++ u.out

/-! ### Number format -/

/-- R69 "round to nearest, ties to even": the rounded magnitude is one of the format's, none of the format's is nearer
to the exact quotient, and where another is as near the significand chosen is even. -/
def Obligations.RoundingIsToNearestEven : Prop :=
  ∀ n d : Nat, 0 < d →
    let k := roundMag n d
    let inFormat := fun m : Nat => m % 2 ^ (m.log2 - 23) = 0
    inFormat k ∧
    ∀ m : Nat, inFormat m →
      |(n : Int) - k * d| ≤ |(n : Int) - m * d| ∧
      (m ≠ k → |(n : Int) - k * d| = |(n : Int) - m * d| → (k / 2 ^ (k.log2 - 23)) % 2 = 0)

/-- 00_scope.md section 5 and R69: `fadd`, `fsub` and `fmul` are correctly rounded. On finite operands the result is the
exact sum, difference or product, `N / D` units of 2^-149 in magnitude, rounded as `RoundingIsToNearestEven` says and
given its sign, an infinity from 2^128 on; an exact zero sum is `+0` unless both addends are `-0`, and a product has the
exclusive-or of the signs, a zero product too. Infinities and NaNs follow IEEE 754. Operands of the format give a result
of the format. -/
def Obligations.OperationsStayInTheFormat : Prop :=
  let rounded := fun (neg : Bool) (N D : Nat) =>
    if roundMag N D < 2 ^ 277 then B32.fin neg (roundMag N D) else .inf neg
  (∀ a b : B32, a.representable = true → b.representable = true →
    (B32.add a b).representable = true ∧ (B32.sub a b).representable = true ∧ (B32.mul a b).representable = true) ∧
  (∀ (s t : Bool) (m n N D : Nat), 0 < D →
    let x := (B32.fin s m).toRat
    let y := (B32.fin t n).toRat
    (|x + y| = (N : Rat) / (D * 2 ^ 149) → B32.add (.fin s m) (.fin t n) =
      if x + y = 0 then .fin (s && t) 0 else rounded (decide (x + y < 0)) N D) ∧
    (|x - y| = (N : Rat) / (D * 2 ^ 149) → B32.sub (.fin s m) (.fin t n) =
      if x - y = 0 then .fin (s && !t) 0 else rounded (decide (x - y < 0)) N D) ∧
    (|x * y| = (N : Rat) / (D * 2 ^ 149) → B32.mul (.fin s m) (.fin t n) = rounded (s ^^ t) N D)) ∧
  (∀ a : B32,
    B32.add .nan a = .nan ∧ B32.add a .nan = .nan ∧ B32.sub .nan a = .nan ∧ B32.sub a .nan = .nan ∧
    B32.mul .nan a = .nan ∧ B32.mul a .nan = .nan) ∧
  (∀ (s t : Bool) (m : Nat),
    B32.add (.inf s) (.fin t m) = .inf s ∧ B32.add (.fin t m) (.inf s) = .inf s ∧
    B32.add (.inf s) (.inf t) = (if s = t then .inf s else .nan) ∧
    B32.sub (.inf s) (.fin t m) = .inf s ∧ B32.sub (.fin t m) (.inf s) = .inf (!s) ∧
    B32.sub (.inf s) (.inf t) = (if s = t then .nan else .inf s) ∧
    B32.mul (.inf s) (.fin t m) = (if m = 0 then .nan else .inf (s ^^ t)) ∧
    B32.mul (.fin t m) (.inf s) = (if m = 0 then .nan else .inf (s ^^ t)) ∧
    B32.mul (.inf s) (.inf t) = .inf (s ^^ t))

/-- 00_scope.md section 5: `fromBits` is the inverse of `bits`. The pattern of a NaN is free (log 5); it is some NaN
pattern. -/
def Obligations.BitsAndFromBitsAreInverse : Prop :=
  (∀ (w free : Word), B32.ofBits w ≠ .nan → (B32.ofBits w).toBits free = w) ∧
  (∀ (x : B32) (free : Word), x.representable = true → B32.ofBits (x.toBits free) = x) ∧
  (∀ w : Word, (B32.ofBits w).representable = true)

/-- 00_scope.md section 5: the ordered comparisons, false with a NaN, else the order of the values with the infinities
outermost and the two zeros equal. -/
def Obligations.ComparisonsFollowTheOrder : Prop :=
  (∀ a b : B32, B32.gt a b = B32.lt b a) ∧
  (∀ a : B32, B32.lt .nan a = false ∧ B32.lt a .nan = false) ∧
  (∀ (s t : Bool) (m n : Nat), B32.lt (.fin s m) (.fin t n) = true ↔ (B32.fin s m).toRat < (B32.fin t n).toRat) ∧
  (∀ (s t : Bool) (m : Nat), (B32.fin t m).representable = true →
    B32.lt (.inf s) (.fin t m) = s ∧ B32.lt (.fin t m) (.inf s) = !s) ∧
  (∀ s t : Bool, B32.lt (.inf s) (.inf t) = (s && !t))

/-! ### Power Estimator -/

/-- R64: every normalised sample is exactly its integer over 128, in both encodings. -/
def Obligations.NormalisedSamplesAreExact : Prop :=
  ∀ b : Byte,
    (norm fmt 0#2 b).toRat = (b.toInt : Rat) / 128 ∧ (norm fmt 1#2 b).toRat = ((b.toNat : Rat) - 128) / 128 ∧
    (norm fmt 0#2 b).representable = true ∧ (norm fmt 1#2 b).representable = true ∧
    norm fmt 0#2 0x00#8 = .fin false 0 ∧ norm fmt 1#2 0x80#8 = .fin false 0

/-- R63, R65, R66, R68: the power of bin `j` is the six rounded operations on the last two values of the recurrence
`u[n+2] = (x[n] + c·u[n+1]) − u[n]` started at `+0.0`, each operation rounded in the order written, with the coefficient
of R75's table, all of whose columns are written out: names, frequencies, indices, `2·cos(2πK/240)` to 17 digits, the
pattern nearest to it, and the pattern's exact decimal. -/
def Obligations.PowerFollowsTheRecurrence : Prop :=
  let pattern : Fin 18 → Word :=
    ![0x3FF57536, 0x3FF150F4, 0x3FEEFF20, 0x3FE0FA29, 0x3FDA46A0, 0x3FD2F9EF, 0x3FC6F30A, 0x3FC2A9F7, 0x3FBE3EBD,
      0x3FA6423A, 0x3F967918, 0x3F85C277, 0x3F800000, 0x3F43EF15, 0x3F116A76, 0x3EEF0C4D, 0xBF1E377A, 0xBF687171]
  let serves : Fin 18 → List Nat :=
    ![[350], [440], [480], [620], [697, 700], [770], [852], [900], [941], [1100], [1209], [1300], [1336], [1477, 1500],
      [1633], [1700], [2400], [2600]]
  let index : Fin 18 → Nat := ![11, 13, 14, 19, 21, 23, 26, 27, 28, 33, 36, 39, 40, 45, 49, 51, 72, 78]
  let cosine : Fin 18 → Rat :=
    ![1.9176394697363861, 1.8852829821843568, 1.8671608529944035, 1.7576342253239307, 1.7052803287081844,
      1.6482523772440313, 1.5542919229139418, 1.5208119312000619, 1.4862896509547885, 1.2988960966603673,
      1.1755705045849463, 1.0449971294318977, 1, 0.76536686473017954, 0.56803068940784523, 0.46689072771181082,
      -0.61803398874989485, -0.90798099947909358]
  let decimal : Fin 18 → Rat :=
    ![1.9176394939422607421875, 1.885282993316650390625, 1.867160797119140625, 1.75763428211212158203125,
      1.705280303955078125, 1.64825236797332763671875, 1.5542919635772705078125, 1.52081191539764404296875,
      1.48628962039947509765625, 1.2988960742950439453125, 1.17557048797607421875, 1.04499709606170654296875, 1,
      0.765366852283477783203125, 0.56803071498870849609375, 0.4668907225131988525390625, -0.61803400516510009765625,
      -0.907980978488922119140625]
  (∀ j : Fin 18,
    coefBits j = pattern j ∧ servesHz j = serves j ∧ binIndex j = index j ∧
    centreHz j = (index j : Rat) * 8000 / 240 ∧
    coef fmt j = B32.ofBits (pattern j) ∧ B32.ofRat (cosine j).num (cosine j).den = B32.ofBits (pattern j) ∧
    (B32.ofBits (pattern j)).toRat = decimal j) ∧
  ((Bin.X1, Bin.X2, Bin.X3, Bin.X4) = (0, 1, 2, 3) ∧ (Bin.R1, Bin.R2, Bin.R3, Bin.R4) = (4, 5, 6, 8) ∧
    (Bin.C1, Bin.C2, Bin.C3, Bin.C4) = (10, 12, 13, 14) ∧ (Bin.B1, Bin.B2, Bin.B3, Bin.B4) = (4, 7, 9, 11) ∧
    (Bin.B5, Bin.B6, Bin.B7, Bin.B8) = (13, 15, 16, 17) ∧ (Bin.S2400, Bin.S2600) = (16, 17)) ∧
  ∀ (frame : List Byte) (enc : BitVec 2) (j : Fin 18) (u : Nat → B32),
    let c := B32.ofBits (pattern j)
    u 0 = .fin false 0 → u 1 = .fin false 0 →
    (∀ n (h : n < frame.length), u (n + 2) = B32.sub (B32.add (norm fmt enc frame[n]) (B32.mul c (u (n + 1)))) (u n)) →
    let u0 := u (frame.length + 1)
    let u1 := u frame.length
    (estimate fmt frame enc)[j] =
      B32.sub (B32.add (B32.mul u0 u0) (B32.mul u1 u1)) (B32.mul (B32.mul c u0) u1)

/-- R73 (the spec derives it): a frame with every byte exclusive-ored with `0x80` and read as unsigned gives the
powers of the frame read as signed, bit for bit. -/
def Obligations.EncodingIndependentPowers : Prop :=
  ∀ frame : List Byte, estimate fmt (frame.map (· ^^^ 0x80#8)) 1#2 = estimate fmt frame 0#2

/-- R65, corner case: a frame of zero samples keeps every lane at zero, so every power is `+0.0`. -/
def Obligations.SilentFramePowersAreZero : Prop :=
  ∀ (k : Nat) (j : Fin 18),
    (estimate fmt (List.replicate k 0x00#8) 0#2)[j] = .fin false 0 ∧
    (estimate fmt (List.replicate k 0x80#8) 1#2)[j] = .fin false 0

/-- R70 (the spec derives it): in exact arithmetic with `c = 2·cos(ω)` the power is the squared magnitude of the
discrete-time Fourier transform of the samples at `ω`. -/
def Obligations.IdealPowerIsDftMagnitude : Prop :=
  ∀ (ω : ℝ) (xs : List ℝ),
    lanePower (idealArith ℝ) (2 * Real.cos ω) xs =
      Complex.normSq (∑ n : Fin xs.length, (xs[n] : ℂ) * Complex.exp (-(Complex.I * ω * (n.val : ℂ))))

/-- R70 (the spec derives it): in exact arithmetic a single non-zero sample of value `v` anywhere in the frame gives
`v²` in every bin. -/
def Obligations.IdealImpulsePowerIsItsSquare : Prop :=
  ∀ (c v : Rat) (a b : Nat),
    lanePower (idealArith Rat) c (List.replicate a 0 ++ v :: List.replicate b 0) = v * v

/-! ### Tone Classifier -/

/-- R81: for powers none of which is a NaN, `maxp` is one of them and none is greater. -/
def Obligations.MaximumIsAGreatestPower : Prop :=
  ∀ p : Vector B32 18, (∀ j : Fin 18, p[j] ≠ .nan) →
    (∃ j : Fin 18, maxPower fmt p = p[j]) ∧ ∀ j : Fin 18, B32.gt p[j] (maxPower fmt p) = false

/-- R82: a largest power below `THRESH` gives Silence, no bin marked, `mf` unchanged; so do powers all below it,
whatever the bin pattern; a largest power equal to `THRESH` is not below it. -/
def Obligations.QuietFramesAreSilence : Prop :=
  ∀ (p : Vector B32 18) (thresh range : B32) (mf : Bool),
    (B32.lt (maxPower fmt p) thresh = true → classify fmt p thresh range mf = ⟨.silence, 0#18, mf⟩) ∧
    ((∀ j : Fin 18, B32.lt p[j] thresh = true) → classify fmt p thresh range mf = ⟨.silence, 0#18, mf⟩) ∧
    (thresh = maxPower fmt p → B32.lt (maxPower fmt p) thresh = false)

/-- R83, R84: where the floor does not fire, bin `i` is on exactly when its power exceeds `fmul(RANGE, maxp)`, and the
symbol and `mf'` are the decision on that on-set (R86). -/
def Obligations.ClassifyMarksBinsAboveCutoff : Prop :=
  ∀ (p : Vector B32 18) (thresh range : B32) (mf : Bool), B32.lt (maxPower fmt p) thresh = false →
    let v := classify fmt p thresh range mf
    (∀ j : Fin 18, v.on.getLsbD j.val = B32.gt p[j] (B32.mul range (maxPower fmt p))) ∧
    (v.sym, v.mf) = decideOnSet v.on mf

/-- R85 (the spec derives it), on binary32: for `0 <= RANGE < 1` and a largest power above 2^-126 that passes the floor,
every bin that holds the largest power is on. The spec derives it for every positive power; at 2^-126 and below a
product rounded in the format can equal the power, and the model follows R83 and R84 there (log 13). -/
def Obligations.LoudestBinIsOn : Prop :=
  ∀ (p : Vector B32 18) (thresh : B32) (mf : Bool) (r m : Nat) (j : Fin 18),
    maxPower fmt p = .fin false m → p[j] = maxPower fmt p → B32.lt (maxPower fmt p) thresh = false →
    (B32.fin false r).representable = true → (B32.fin false m).representable = true → r < 2 ^ 149 → 2 ^ 23 < m →
    (classify fmt p thresh (.fin false r) mf).on.getLsbD j.val = true

/-- R102 (the spec derives it): with a NaN in `RANGE`, or `RANGE >= 1`, finite non-negative powers that pass the floor
leave no bin on, so the frame is Silence. -/
def Obligations.LargeOrNanRangeIsSilence : Prop :=
  ∀ (p : Vector B32 18) (thresh range : B32) (mf : Bool),
    (∀ j : Fin 18, ∃ m, p[j] = .fin false m ∧ (B32.fin false m).representable = true) →
    (range = .nan ∨ range = .inf false ∨ ∃ r, range = .fin false r ∧ 2 ^ 149 ≤ r) →
    classify fmt p thresh range mf = ⟨.silence, 0#18, mf⟩

/-- R88: one bin on gives code 21 for position 16, 22 for 17, 31 for every other, `mf` unchanged. -/
def Obligations.SingleBinDecision : Prop :=
  ∀ (on : BitVec 18) (mf : Bool), onCount on = 1 →
    ∃ j : Fin 18, on = BitVec.twoPow 18 j.val ∧ (decideOnSet on mf).2 = mf ∧
      (decideOnSet on mf).1.code = if j = 16 then 21#5 else if j = 17 then 22#5 else 31#5

/-- R103 (the spec derives it from R89 to R98): the whole decision on two bins, the 34 listed pairs and the 119
others, with `mf'`. -/
def Obligations.PairDecisionTable : Prop :=
  ∀ (on : BitVec 18) (mf : Bool), onCount on = 2 →
    ∃ a b : Fin 18, a < b ∧ on = pairMask a b ∧
      decideOnSet on mf = (pairSymbol a b mf,
        if (a = 9 ∧ b = 15) ∨ (a = 11 ∧ b = 15) then true else if a = 13 ∧ b = 15 then false else mf)

/-- R99: more than two bins on are Invalid, code 31, `mf` unchanged; and (R87) no bin on is Silence. -/
def Obligations.OtherCountsDecision : Prop :=
  ∀ (on : BitVec 18) (mf : Bool),
    (onCount on = 0 → on = 0#18 ∧ decideOnSet on mf = (.silence, mf)) ∧
    (2 < onCount on → (decideOnSet on mf).1.code = 31#5 ∧ (decideOnSet on mf).2 = mf)

/-- R97: KP1 and KP2 set the bracket, ST clears it, every other result leaves it. R100: two calls that differ only in
`mf` mark the same bins, and give the same symbol unless the on-set is {4, 13}. -/
def Obligations.MfFollowsKpAndSt : Prop :=
  ∀ (p : Vector B32 18) (thresh range : B32),
    let v := fun mf => classify fmt p thresh range mf
    (∀ mf, (v mf).mf = if (v mf).sym = .kp1 ∨ (v mf).sym = .kp2 then true else if (v mf).sym = .st then false else mf) ∧
    (v true).on = (v false).on ∧
    ((v false).on ≠ pairMask 4 13 → (v true).sym = (v false).sym)

/-! ### Formatter, at the boundary -/

/-- R117 (the spec derives it), flush property: with a threshold R115 accepts, a silence run emits one line break exactly
when it reaches the threshold, and two full runs with a tone between them emit two. -/
def Obligations.SilenceRunFlushesOnce : Prop :=
  ∀ (flush n : Nat), 0 < flush →
    Formatter.session (List.replicate n .silence) flush =
      some ((if flush ≤ n then [.newline] else []) ++ [.newline]) ∧
    ∀ x : Symbol, x ≠ .silence → x ≠ .invalid →
      Formatter.session (List.replicate flush .silence ++ x :: List.replicate flush .silence) flush =
        some [.newline, .symbol x, .newline, .newline]

/-- R117 (the spec derives it), idempotence of repeats, Invalid frames inside the tone included (R113): with a threshold
R115 accepts, one held tone emits its token once. -/
def Obligations.HeldToneEmittedOnce : Prop :=
  ∀ (flush : Int) (x : Symbol) (xs : List Symbol), 0 < flush → x ≠ .silence → x ≠ .invalid →
    (∀ y ∈ xs, y = x ∨ y = .invalid) → Formatter.session (x :: xs) flush = some [.symbol x, .newline]

/-- SC's round trip at the Formatter (R110 to R112): with a threshold R115 accepts, tones, each held for one frame or
more and followed by a gap of silence shorter than the flush threshold, come out once each and in order. -/
def Obligations.GappedTonesRoundTrip : Prop :=
  ∀ (flush : Nat) (ds : List (Symbol × Nat × Nat)), 0 < flush →
    (∀ d ∈ ds, d.1 ≠ .silence ∧ d.1 ≠ .invalid ∧ 1 ≤ d.2.1 ∧ 1 ≤ d.2.2 ∧ d.2.2 < flush) →
    Formatter.session (ds.flatMap fun d => List.replicate d.2.1 d.1 ++ List.replicate d.2.2 .silence) flush =
      some (ds.map (fun d => Token.symbol d.1) ++ [.newline])

/-- R115: a threshold that is not positive is refused at set-up, before any symbol or word, and no other; the default is
100. -/
def Obligations.FlushThresholdIsChecked : Prop :=
  (∀ (flush : Int) (xs : List Symbol) (ws : List OutWord),
    (Formatter.setup flush = none ↔ flush ≤ 0) ∧ (Formatter.session xs flush = none ↔ flush ≤ 0) ∧
    (Formatter.stream ws flush = none ↔ flush ≤ 0)) ∧
  (∀ flush : Int, 0 < flush → ∃ f, Formatter.setup flush = some f ∧ f.flush.val = flush ∧ f.last = .silence ∧
    f.run = some 0) ∧
  (∀ (xs : List Symbol) (ws : List OutWord),
    Formatter.session xs = Formatter.session xs 100 ∧ Formatter.stream ws = Formatter.stream ws 100)

/-! ### The number format as an argument -/

/-- R8 and R49: the number format is an argument, and in another format the reset patterns of R22 and R23 are the images
of `F(100)` and `F(1/10)` and the registers carry the format's images (R53 and R57 in that format; the first argument of
`bits` is free, log 5). The model's choice (log 6): that `P` is reset to the image of `+0.0`, which R16 gives for the
default format, that no other command looks at the format, and that `exec` and `step` are the machine at the default
format. -/
def Obligations.FormatIsAnArgument : Prop :=
  (∀ (F : Type) (A : Format F) (s : State),
    let zero := A.bits 0#32 A.zero
    let hundred := A.bits 0#32 (A.ofRat 100 1)
    let tenth := A.bits 0#32 (A.ofRat 1 10)
    State.resetIn A = { State.reset with p := Vector.replicate 18 zero, thresh := hundred, range := tenth } ∧
    execIn A .reset s = .next
      { State.resetIn A with fb := s.fb, inputs := s.inputs, out := s.out, rsp := s.rsp } ∧
    (∀ b : Byte, s.phase = .run → s.cnt.val = 239 →
      let fb := s.fb.write 239 b
      let p := estimate A fb.frame s.enc
      let v := classify A p (A.ofBits s.thresh) (A.ofBits s.range) s.mf
      ∃ q : Vector Word 18, (∀ j : Fin 18, ∃ free, q[j] = A.bits free p[j]) ∧
        execIn A (.sample b) s = .next
          { s with
            fb := fb, cnt := 0, p := q, on := v.on, sym := v.sym, symv := true, mf := v.mf, frames := s.frames + 1,
            out := s.out ++ [0#1 ++ v.sym.code] }) ∧
    (∀ i : Instr, i ≠ .reset → ¬ ((∃ b, i = .sample b) ∧ s.phase = .run ∧ s.cnt.val = 239) →
      execIn A i s = exec i s)) ∧
  (State.resetIn fmt).thresh = 0x42C80000#32 ∧ (State.resetIn fmt).range = 0x3DCCCCCD#32 ∧
  (∀ (i : Instr) (s : State), execIn fmt i s = exec i s) ∧ ∀ s : State, stepIn fmt s = step s
end

