-- ==== Sys2Proof/Laws/Binary32.lean ====
section
/-! SUPPORT. The rounding of the number format depends on the quotient alone. -/

namespace Sys2Proof.Machine

/-- The rounded magnitude is that of the quotient, however the fraction is written. -/
theorem roundMag_scale (n d : Nat) {c : Nat} (hc : 0 < c) : roundMag (c * n) (c * d) = roundMag n d := by
  simp only [roundMag, Nat.mul_div_mul_left _ _ hc, roundQuot, Nat.mul_assoc, Nat.mul_mod_mul_left]
  have below (a b : Nat) : 2 * (c * a) < c * b ↔ 2 * a < b := by
    rw [Nat.mul_left_comm, Nat.mul_lt_mul_left hc]
  have above (a b : Nat) : c * b < 2 * (c * a) ↔ b < 2 * a := by
    rw [Nat.mul_left_comm, Nat.mul_lt_mul_left hc]
  simp only [below, above]

/-- Two fractions of one value round alike. -/
theorem roundMag_congr {n d n' d' : Nat} (hd : 0 < d) (hd' : 0 < d') (h : n * d' = n' * d) :
    roundMag n d = roundMag n' d' := by
  rw [← roundMag_scale n d hd', ← roundMag_scale n' d' hd, Nat.mul_comm d' n, h, Nat.mul_comm n' d, Nat.mul_comm d' d]

end Sys2Proof.Machine
end

