-- ==== Sys2Proof/Laws/Decode.lean ====
section
/-! SUPPORT. The three fields of a packed word read back, and a word is its fields packed (R40, R41). -/

namespace Sys2Proof

@[simp] theorem fieldOp_pack (op : BitVec 3) (a : CsrAddr) (d : Word) : fieldOp (packFields op a d) = op := by
  unfold fieldOp packFields; ext i hi; simp only [BitVec.getElem_extractLsb', BitVec.getLsbD_append]; grind

@[simp] theorem fieldA_pack (op : BitVec 3) (a : CsrAddr) (d : Word) : fieldA (packFields op a d) = a := by
  unfold fieldA packFields; ext i hi; simp; grind

@[simp] theorem fieldD_pack (op : BitVec 3) (a : CsrAddr) (d : Word) : fieldD (packFields op a d) = d := by
  unfold fieldD packFields; ext i hi; simp; grind

theorem pack_fields (w : CmdWord) : packFields (fieldOp w) (fieldA w) (fieldD w) = w := by
  unfold fieldOp fieldA fieldD packFields; ext i hi; simp; grind

@[simp] theorem sampleByte_append (h : BitVec 24) (b : Byte) : sampleByte (h ++ b) = b := by
  unfold sampleByte; ext i hi; simp; grind

@[simp] theorem sampleHigh_append (h : BitVec 24) (b : Byte) : sampleHigh (h ++ b) = h := by
  unfold sampleHigh; ext i hi; simp only [BitVec.getElem_extractLsb', BitVec.getLsbD_append]; grind

theorem sample_split (d : Word) : sampleHigh d ++ sampleByte d = d := by
  unfold sampleHigh sampleByte; ext i hi; simp; grind

/-- The reserved opcode with its 37 other bits, as the three fields. -/
theorem reserved_pack (a : CsrAddr) (d : Word) : packFields 6#3 a d = (6#3 ++ (a ++ d) : CmdWord) := by
  unfold packFields; ext i hi; simp; grind

theorem reserved_split (x : BitVec 37) : x.extractLsb' 32 5 ++ x.extractLsb' 0 32 = x := by
  ext i hi; simp; grind

end Sys2Proof
end

