-- ==== Sys2Proof/Laws/Estimator.lean ====
section
/-! SUPPORT. The estimator and the classifier as later proofs cite them: one equation per function, so that neither is
unfolded again. -/

namespace Sys2Proof.Machine

/-- The power of one bin is its own lane's (R67). -/
@[simp] theorem getElem_estimate {F : Type} (A : Format F) (frame : List Byte) (enc : BitVec 2) (j : Fin 18) :
    (estimate A frame enc)[j] = lanePower A.toArith (coef A j) (normFrame A enc frame) := by
  simp [estimate]

theorem estimate_eq_iff {F : Type} {p q : Vector F 18} : p = q ↔ ∀ j : Fin 18, p[j] = q[j] :=
  ⟨fun h _ => h ▸ rfl, fun h => Vector.ext fun i hi => h ⟨i, hi⟩⟩

@[simp] theorem laneRun_nil {F : Type} (A : Arith F) (c : F) : laneRun A c [] = laneStart A := rfl

/-- One more sample is one more step (R65). -/
@[simp] theorem laneRun_concat {F : Type} (A : Arith F) (c x : F) (xs : List F) :
    laneRun A c (xs ++ [x]) = laneStep A c (laneRun A c xs) x := by
  simp [laneRun]

@[simp] theorem getLsbD_onVector {F : Type} (A : Format F) (p : Vector F 18) (c : F) (j : Fin 18) :
    (onVector A p c).getLsbD j.val = A.gt p[j] c := by
  simp [onVector]

theorem classify_floor {F : Type} {A : Format F} {p : Vector F 18} {thresh range : F} {mf : Bool}
    (h : A.lt (maxPower A p) thresh = true) : classify A p thresh range mf = ⟨.silence, 0#18, mf⟩ := by
  simp [classify, belowFloor, h]

theorem classify_decide {F : Type} {A : Format F} {p : Vector F 18} {thresh range : F} {mf : Bool}
    (h : A.lt (maxPower A p) thresh = false) :
    classify A p thresh range mf =
      ⟨(decideOnSet (onVector A p (A.mul range (maxPower A p))) mf).1, onVector A p (A.mul range (maxPower A p)),
        (decideOnSet (onVector A p (A.mul range (maxPower A p))) mf).2⟩ := by
  simp [classify, belowFloor, cutoff, h]

/-- `maxp` is one of the powers, whatever they are. -/
theorem maxPower_mem {F : Type} (A : Format F) (p : Vector F 18) : ∃ j : Fin 18, maxPower A p = p[j] := by
  have key : ∀ (l : List (Fin 17)) (m : F), (∃ j : Fin 18, m = p[j]) →
      ∃ j : Fin 18, l.foldl (fun m i => if A.gt p[i.succ] m then p[i.succ] else m) m = p[j] := by
    intro l
    induction l with
    | nil => exact fun m h => h
    | cons i l ih =>
      intro m h
      refine ih _ ?_
      beta_reduce
      split
      · exact ⟨i.succ, rfl⟩
      · exact h
  unfold maxPower
  exact key _ _ ⟨0, rfl⟩

/-- The image of each power. -/
@[simp] theorem getElem_powerBits {F : Type} (A : Format F) (s : State) (p : Vector F 18) (j : Fin 18) :
    (s.powerBits A p)[j] = A.bits (Config.freeNaN s.frames j) p[j] := by
  simp [State.powerBits]

/-- In the default format it is free for a NaN alone. -/
theorem getElem_powerBits_fmt (s : State) (p : Vector B32 18) (j : Fin 18) :
    (s.powerBits fmt p)[j] = (p[j]).toBits (Config.freeNaN s.frames j) := getElem_powerBits fmt s p j

/-- In the default format `COEF[j]` is the value of its normative pattern (R75). -/
theorem coef_fmt (j : Bin) : coef fmt j = B32.ofBits (coefBits j) := by
  revert j; decide +kernel

/-- The estimate reads the frame and `ENC` alone. -/
theorem framePowers_congr {F : Type} (A : Format F) {s t : State} (hf : s.fb.frame = t.fb.frame) (he : s.enc = t.enc) :
    s.framePowers A = t.framePowers A := by
  simp [State.framePowers, hf, he]

/-- The verdict reads `THRESH`, `RANGE` and `MF` alone (R80). -/
theorem verdictOn_congr {F : Type} (A : Format F) {s t : State} (p : Vector F 18) (ht : s.thresh = t.thresh)
    (hr : s.range = t.range) (hm : s.mf = t.mf) : s.verdictOn A p = t.verdictOn A p := by
  simp [State.verdictOn, ht, hr, hm]

theorem powerBits_congr {F : Type} (A : Format F) {s t : State} (p : Vector F 18) (h : s.frames = t.frames) :
    s.powerBits A p = t.powerBits A p := by
  simp [State.powerBits, h]

@[simp] theorem decideOnSet_zero (mf : Bool) : decideOnSet 0#18 mf = (.silence, mf) := by
  simp [decideOnSet, show onCount 0#18 = 0 by decide]

/-- The symbol of a verdict is the decision on its on-set (R103). -/
theorem verdictOn_sym {F : Type} (A : Format F) (s : State) (p : Vector F 18) :
    ∃ mf, (s.verdictOn A p).sym = (decideOnSet (s.verdictOn A p).on mf).1 := by
  unfold State.verdictOn
  rcases h : A.lt (maxPower A p) (A.ofBits s.thresh) with _ | _
  · exact ⟨s.mf, by rw [classify_decide h]⟩
  · exact ⟨false, by rw [classify_floor h]; simp⟩

end Sys2Proof.Machine
end

