-- ==== Sys2Proof/Laws/State.lean ====
section
/-! SUPPORT. One lemma per field per update of State, so that no later proof unfolds a record update. -/

namespace Sys2Proof.Machine

section FbWrite
variable (s : State) (i : Fin 240) (b : Byte)
@[simp] theorem State.fbWrite_phase : (s.fbWrite i b).phase = s.phase := rfl
@[simp] theorem State.fbWrite_cnt : (s.fbWrite i b).cnt = s.cnt := rfl
@[simp] theorem State.fbWrite_fb : (s.fbWrite i b).fb = s.fb.write i.val b := rfl
@[simp] theorem State.fbWrite_mf : (s.fbWrite i b).mf = s.mf := rfl
@[simp] theorem State.fbWrite_p : (s.fbWrite i b).p = s.p := rfl
@[simp] theorem State.fbWrite_on : (s.fbWrite i b).on = s.on := rfl
@[simp] theorem State.fbWrite_sym : (s.fbWrite i b).sym = s.sym := rfl
@[simp] theorem State.fbWrite_symv : (s.fbWrite i b).symv = s.symv := rfl
@[simp] theorem State.fbWrite_frames : (s.fbWrite i b).frames = s.frames := rfl
@[simp] theorem State.fbWrite_eosf : (s.fbWrite i b).eosf = s.eosf := rfl
@[simp] theorem State.fbWrite_cfgerr : (s.fbWrite i b).cfgerr = s.cfgerr := rfl
@[simp] theorem State.fbWrite_seqerr : (s.fbWrite i b).seqerr = s.seqerr := rfl
@[simp] theorem State.fbWrite_illcmd : (s.fbWrite i b).illcmd = s.illcmd := rfl
@[simp] theorem State.fbWrite_enc : (s.fbWrite i b).enc = s.enc := rfl
@[simp] theorem State.fbWrite_thresh : (s.fbWrite i b).thresh = s.thresh := rfl
@[simp] theorem State.fbWrite_range : (s.fbWrite i b).range = s.range := rfl
@[simp] theorem State.fbWrite_inputs : (s.fbWrite i b).inputs = s.inputs := rfl
@[simp] theorem State.fbWrite_out : (s.fbWrite i b).out = s.out := rfl
@[simp] theorem State.fbWrite_rsp : (s.fbWrite i b).rsp = s.rsp := rfl
end FbWrite

section AppendOut
variable (s : State) (w : OutWord)
@[simp] theorem State.appendOut_phase : (s.appendOut w).phase = s.phase := rfl
@[simp] theorem State.appendOut_cnt : (s.appendOut w).cnt = s.cnt := rfl
@[simp] theorem State.appendOut_fb : (s.appendOut w).fb = s.fb := rfl
@[simp] theorem State.appendOut_mf : (s.appendOut w).mf = s.mf := rfl
@[simp] theorem State.appendOut_p : (s.appendOut w).p = s.p := rfl
@[simp] theorem State.appendOut_on : (s.appendOut w).on = s.on := rfl
@[simp] theorem State.appendOut_sym : (s.appendOut w).sym = s.sym := rfl
@[simp] theorem State.appendOut_symv : (s.appendOut w).symv = s.symv := rfl
@[simp] theorem State.appendOut_frames : (s.appendOut w).frames = s.frames := rfl
@[simp] theorem State.appendOut_eosf : (s.appendOut w).eosf = s.eosf := rfl
@[simp] theorem State.appendOut_cfgerr : (s.appendOut w).cfgerr = s.cfgerr := rfl
@[simp] theorem State.appendOut_seqerr : (s.appendOut w).seqerr = s.seqerr := rfl
@[simp] theorem State.appendOut_illcmd : (s.appendOut w).illcmd = s.illcmd := rfl
@[simp] theorem State.appendOut_enc : (s.appendOut w).enc = s.enc := rfl
@[simp] theorem State.appendOut_thresh : (s.appendOut w).thresh = s.thresh := rfl
@[simp] theorem State.appendOut_range : (s.appendOut w).range = s.range := rfl
@[simp] theorem State.appendOut_inputs : (s.appendOut w).inputs = s.inputs := rfl
@[simp] theorem State.appendOut_out : (s.appendOut w).out = s.out ++ [w] := rfl
@[simp] theorem State.appendOut_rsp : (s.appendOut w).rsp = s.rsp := rfl
end AppendOut

section AppendRsp
variable (s : State) (w : Word)
@[simp] theorem State.appendRsp_phase : (s.appendRsp w).phase = s.phase := rfl
@[simp] theorem State.appendRsp_cnt : (s.appendRsp w).cnt = s.cnt := rfl
@[simp] theorem State.appendRsp_fb : (s.appendRsp w).fb = s.fb := rfl
@[simp] theorem State.appendRsp_mf : (s.appendRsp w).mf = s.mf := rfl
@[simp] theorem State.appendRsp_p : (s.appendRsp w).p = s.p := rfl
@[simp] theorem State.appendRsp_on : (s.appendRsp w).on = s.on := rfl
@[simp] theorem State.appendRsp_sym : (s.appendRsp w).sym = s.sym := rfl
@[simp] theorem State.appendRsp_symv : (s.appendRsp w).symv = s.symv := rfl
@[simp] theorem State.appendRsp_frames : (s.appendRsp w).frames = s.frames := rfl
@[simp] theorem State.appendRsp_eosf : (s.appendRsp w).eosf = s.eosf := rfl
@[simp] theorem State.appendRsp_cfgerr : (s.appendRsp w).cfgerr = s.cfgerr := rfl
@[simp] theorem State.appendRsp_seqerr : (s.appendRsp w).seqerr = s.seqerr := rfl
@[simp] theorem State.appendRsp_illcmd : (s.appendRsp w).illcmd = s.illcmd := rfl
@[simp] theorem State.appendRsp_enc : (s.appendRsp w).enc = s.enc := rfl
@[simp] theorem State.appendRsp_thresh : (s.appendRsp w).thresh = s.thresh := rfl
@[simp] theorem State.appendRsp_range : (s.appendRsp w).range = s.range := rfl
@[simp] theorem State.appendRsp_inputs : (s.appendRsp w).inputs = s.inputs := rfl
@[simp] theorem State.appendRsp_out : (s.appendRsp w).out = s.out := rfl
@[simp] theorem State.appendRsp_rsp : (s.appendRsp w).rsp = s.rsp ++ [w] := rfl
end AppendRsp

section SetCnt
variable (s : State) (c : Fin 240)
@[simp] theorem State.setCnt_phase : (s.setCnt c).phase = s.phase := rfl
@[simp] theorem State.setCnt_cnt : (s.setCnt c).cnt = c := rfl
@[simp] theorem State.setCnt_fb : (s.setCnt c).fb = s.fb := rfl
@[simp] theorem State.setCnt_mf : (s.setCnt c).mf = s.mf := rfl
@[simp] theorem State.setCnt_p : (s.setCnt c).p = s.p := rfl
@[simp] theorem State.setCnt_on : (s.setCnt c).on = s.on := rfl
@[simp] theorem State.setCnt_sym : (s.setCnt c).sym = s.sym := rfl
@[simp] theorem State.setCnt_symv : (s.setCnt c).symv = s.symv := rfl
@[simp] theorem State.setCnt_frames : (s.setCnt c).frames = s.frames := rfl
@[simp] theorem State.setCnt_eosf : (s.setCnt c).eosf = s.eosf := rfl
@[simp] theorem State.setCnt_cfgerr : (s.setCnt c).cfgerr = s.cfgerr := rfl
@[simp] theorem State.setCnt_seqerr : (s.setCnt c).seqerr = s.seqerr := rfl
@[simp] theorem State.setCnt_illcmd : (s.setCnt c).illcmd = s.illcmd := rfl
@[simp] theorem State.setCnt_enc : (s.setCnt c).enc = s.enc := rfl
@[simp] theorem State.setCnt_thresh : (s.setCnt c).thresh = s.thresh := rfl
@[simp] theorem State.setCnt_range : (s.setCnt c).range = s.range := rfl
@[simp] theorem State.setCnt_inputs : (s.setCnt c).inputs = s.inputs := rfl
@[simp] theorem State.setCnt_out : (s.setCnt c).out = s.out := rfl
@[simp] theorem State.setCnt_rsp : (s.setCnt c).rsp = s.rsp := rfl
end SetCnt

section OpenSession
variable (s : State)
@[simp] theorem State.openSession_phase : s.openSession.phase = .run := rfl
@[simp] theorem State.openSession_cnt : s.openSession.cnt = 0 := rfl
@[simp] theorem State.openSession_fb : s.openSession.fb = s.fb := rfl
@[simp] theorem State.openSession_mf : s.openSession.mf = false := rfl
@[simp] theorem State.openSession_p : s.openSession.p = s.p := rfl
@[simp] theorem State.openSession_on : s.openSession.on = s.on := rfl
@[simp] theorem State.openSession_sym : s.openSession.sym = s.sym := rfl
@[simp] theorem State.openSession_symv : s.openSession.symv = false := rfl
@[simp] theorem State.openSession_frames : s.openSession.frames = 0 := rfl
@[simp] theorem State.openSession_eosf : s.openSession.eosf = false := rfl
@[simp] theorem State.openSession_cfgerr : s.openSession.cfgerr = s.cfgerr := rfl
@[simp] theorem State.openSession_seqerr : s.openSession.seqerr = s.seqerr := rfl
@[simp] theorem State.openSession_illcmd : s.openSession.illcmd = s.illcmd := rfl
@[simp] theorem State.openSession_enc : s.openSession.enc = s.enc := rfl
@[simp] theorem State.openSession_thresh : s.openSession.thresh = s.thresh := rfl
@[simp] theorem State.openSession_range : s.openSession.range = s.range := rfl
@[simp] theorem State.openSession_inputs : s.openSession.inputs = s.inputs := rfl
@[simp] theorem State.openSession_out : s.openSession.out = s.out := rfl
@[simp] theorem State.openSession_rsp : s.openSession.rsp = s.rsp := rfl
end OpenSession

section CloseSession
variable (s : State)
@[simp] theorem State.closeSession_phase : s.closeSession.phase = .idle := rfl
@[simp] theorem State.closeSession_cnt : s.closeSession.cnt = 0 := rfl
@[simp] theorem State.closeSession_fb : s.closeSession.fb = s.fb := rfl
@[simp] theorem State.closeSession_mf : s.closeSession.mf = s.mf := rfl
@[simp] theorem State.closeSession_p : s.closeSession.p = s.p := rfl
@[simp] theorem State.closeSession_on : s.closeSession.on = s.on := rfl
@[simp] theorem State.closeSession_sym : s.closeSession.sym = s.sym := rfl
@[simp] theorem State.closeSession_symv : s.closeSession.symv = s.symv := rfl
@[simp] theorem State.closeSession_frames : s.closeSession.frames = s.frames := rfl
@[simp] theorem State.closeSession_eosf : s.closeSession.eosf = true := rfl
@[simp] theorem State.closeSession_cfgerr : s.closeSession.cfgerr = s.cfgerr := rfl
@[simp] theorem State.closeSession_seqerr : s.closeSession.seqerr = s.seqerr := rfl
@[simp] theorem State.closeSession_illcmd : s.closeSession.illcmd = s.illcmd := rfl
@[simp] theorem State.closeSession_enc : s.closeSession.enc = s.enc := rfl
@[simp] theorem State.closeSession_thresh : s.closeSession.thresh = s.thresh := rfl
@[simp] theorem State.closeSession_range : s.closeSession.range = s.range := rfl
@[simp] theorem State.closeSession_inputs : s.closeSession.inputs = s.inputs := rfl
@[simp] theorem State.closeSession_out : s.closeSession.out = s.out := rfl
@[simp] theorem State.closeSession_rsp : s.closeSession.rsp = s.rsp := rfl
end CloseSession

section RecordFrame
variable (s : State) (q : Vector Word 18) (y : Symbol) (o : BitVec 18) (m : Bool)
@[simp] theorem State.recordFrame_phase : (s.recordFrame q y o m).phase = s.phase := rfl
@[simp] theorem State.recordFrame_cnt : (s.recordFrame q y o m).cnt = s.cnt := rfl
@[simp] theorem State.recordFrame_fb : (s.recordFrame q y o m).fb = s.fb := rfl
@[simp] theorem State.recordFrame_mf : (s.recordFrame q y o m).mf = m := rfl
@[simp] theorem State.recordFrame_p : (s.recordFrame q y o m).p = q := rfl
@[simp] theorem State.recordFrame_on : (s.recordFrame q y o m).on = o := rfl
@[simp] theorem State.recordFrame_sym : (s.recordFrame q y o m).sym = y := rfl
@[simp] theorem State.recordFrame_symv : (s.recordFrame q y o m).symv = true := rfl
@[simp] theorem State.recordFrame_frames : (s.recordFrame q y o m).frames = s.frames + 1 := rfl
@[simp] theorem State.recordFrame_eosf : (s.recordFrame q y o m).eosf = s.eosf := rfl
@[simp] theorem State.recordFrame_cfgerr : (s.recordFrame q y o m).cfgerr = s.cfgerr := rfl
@[simp] theorem State.recordFrame_seqerr : (s.recordFrame q y o m).seqerr = s.seqerr := rfl
@[simp] theorem State.recordFrame_illcmd : (s.recordFrame q y o m).illcmd = s.illcmd := rfl
@[simp] theorem State.recordFrame_enc : (s.recordFrame q y o m).enc = s.enc := rfl
@[simp] theorem State.recordFrame_thresh : (s.recordFrame q y o m).thresh = s.thresh := rfl
@[simp] theorem State.recordFrame_range : (s.recordFrame q y o m).range = s.range := rfl
@[simp] theorem State.recordFrame_inputs : (s.recordFrame q y o m).inputs = s.inputs := rfl
@[simp] theorem State.recordFrame_out : (s.recordFrame q y o m).out = s.out := rfl
@[simp] theorem State.recordFrame_rsp : (s.recordFrame q y o m).rsp = s.rsp := rfl
end RecordFrame

section WriteCfg
variable (s : State) (v : Word)
@[simp] theorem State.writeCfg_phase : (s.writeCfg v).phase = s.phase := rfl
@[simp] theorem State.writeCfg_cnt : (s.writeCfg v).cnt = s.cnt := rfl
@[simp] theorem State.writeCfg_fb : (s.writeCfg v).fb = s.fb := rfl
@[simp] theorem State.writeCfg_mf : (s.writeCfg v).mf = s.mf := rfl
@[simp] theorem State.writeCfg_p : (s.writeCfg v).p = s.p := rfl
@[simp] theorem State.writeCfg_on : (s.writeCfg v).on = s.on := rfl
@[simp] theorem State.writeCfg_sym : (s.writeCfg v).sym = s.sym := rfl
@[simp] theorem State.writeCfg_symv : (s.writeCfg v).symv = s.symv := rfl
@[simp] theorem State.writeCfg_frames : (s.writeCfg v).frames = s.frames := rfl
@[simp] theorem State.writeCfg_eosf : (s.writeCfg v).eosf = s.eosf := rfl
@[simp] theorem State.writeCfg_cfgerr : (s.writeCfg v).cfgerr = s.cfgerr := rfl
@[simp] theorem State.writeCfg_seqerr : (s.writeCfg v).seqerr = s.seqerr := rfl
@[simp] theorem State.writeCfg_illcmd : (s.writeCfg v).illcmd = s.illcmd := rfl
@[simp] theorem State.writeCfg_enc : (s.writeCfg v).enc = v.extractLsb' 0 2 := rfl
@[simp] theorem State.writeCfg_thresh : (s.writeCfg v).thresh = s.thresh := rfl
@[simp] theorem State.writeCfg_range : (s.writeCfg v).range = s.range := rfl
@[simp] theorem State.writeCfg_inputs : (s.writeCfg v).inputs = s.inputs := rfl
@[simp] theorem State.writeCfg_out : (s.writeCfg v).out = s.out := rfl
@[simp] theorem State.writeCfg_rsp : (s.writeCfg v).rsp = s.rsp := rfl
end WriteCfg

section WriteThresh
variable (s : State) (v : Word)
@[simp] theorem State.writeThresh_phase : (s.writeThresh v).phase = s.phase := rfl
@[simp] theorem State.writeThresh_cnt : (s.writeThresh v).cnt = s.cnt := rfl
@[simp] theorem State.writeThresh_fb : (s.writeThresh v).fb = s.fb := rfl
@[simp] theorem State.writeThresh_mf : (s.writeThresh v).mf = s.mf := rfl
@[simp] theorem State.writeThresh_p : (s.writeThresh v).p = s.p := rfl
@[simp] theorem State.writeThresh_on : (s.writeThresh v).on = s.on := rfl
@[simp] theorem State.writeThresh_sym : (s.writeThresh v).sym = s.sym := rfl
@[simp] theorem State.writeThresh_symv : (s.writeThresh v).symv = s.symv := rfl
@[simp] theorem State.writeThresh_frames : (s.writeThresh v).frames = s.frames := rfl
@[simp] theorem State.writeThresh_eosf : (s.writeThresh v).eosf = s.eosf := rfl
@[simp] theorem State.writeThresh_cfgerr : (s.writeThresh v).cfgerr = s.cfgerr := rfl
@[simp] theorem State.writeThresh_seqerr : (s.writeThresh v).seqerr = s.seqerr := rfl
@[simp] theorem State.writeThresh_illcmd : (s.writeThresh v).illcmd = s.illcmd := rfl
@[simp] theorem State.writeThresh_enc : (s.writeThresh v).enc = s.enc := rfl
@[simp] theorem State.writeThresh_thresh : (s.writeThresh v).thresh = v := rfl
@[simp] theorem State.writeThresh_range : (s.writeThresh v).range = s.range := rfl
@[simp] theorem State.writeThresh_inputs : (s.writeThresh v).inputs = s.inputs := rfl
@[simp] theorem State.writeThresh_out : (s.writeThresh v).out = s.out := rfl
@[simp] theorem State.writeThresh_rsp : (s.writeThresh v).rsp = s.rsp := rfl
end WriteThresh

section WriteRange
variable (s : State) (v : Word)
@[simp] theorem State.writeRange_phase : (s.writeRange v).phase = s.phase := rfl
@[simp] theorem State.writeRange_cnt : (s.writeRange v).cnt = s.cnt := rfl
@[simp] theorem State.writeRange_fb : (s.writeRange v).fb = s.fb := rfl
@[simp] theorem State.writeRange_mf : (s.writeRange v).mf = s.mf := rfl
@[simp] theorem State.writeRange_p : (s.writeRange v).p = s.p := rfl
@[simp] theorem State.writeRange_on : (s.writeRange v).on = s.on := rfl
@[simp] theorem State.writeRange_sym : (s.writeRange v).sym = s.sym := rfl
@[simp] theorem State.writeRange_symv : (s.writeRange v).symv = s.symv := rfl
@[simp] theorem State.writeRange_frames : (s.writeRange v).frames = s.frames := rfl
@[simp] theorem State.writeRange_eosf : (s.writeRange v).eosf = s.eosf := rfl
@[simp] theorem State.writeRange_cfgerr : (s.writeRange v).cfgerr = s.cfgerr := rfl
@[simp] theorem State.writeRange_seqerr : (s.writeRange v).seqerr = s.seqerr := rfl
@[simp] theorem State.writeRange_illcmd : (s.writeRange v).illcmd = s.illcmd := rfl
@[simp] theorem State.writeRange_enc : (s.writeRange v).enc = s.enc := rfl
@[simp] theorem State.writeRange_thresh : (s.writeRange v).thresh = s.thresh := rfl
@[simp] theorem State.writeRange_range : (s.writeRange v).range = v := rfl
@[simp] theorem State.writeRange_inputs : (s.writeRange v).inputs = s.inputs := rfl
@[simp] theorem State.writeRange_out : (s.writeRange v).out = s.out := rfl
@[simp] theorem State.writeRange_rsp : (s.writeRange v).rsp = s.rsp := rfl
end WriteRange

section SetInputs
variable (s : State) (l : List HostMove)
@[simp] theorem State.setInputs_phase : (s.setInputs l).phase = s.phase := rfl
@[simp] theorem State.setInputs_cnt : (s.setInputs l).cnt = s.cnt := rfl
@[simp] theorem State.setInputs_fb : (s.setInputs l).fb = s.fb := rfl
@[simp] theorem State.setInputs_mf : (s.setInputs l).mf = s.mf := rfl
@[simp] theorem State.setInputs_p : (s.setInputs l).p = s.p := rfl
@[simp] theorem State.setInputs_on : (s.setInputs l).on = s.on := rfl
@[simp] theorem State.setInputs_sym : (s.setInputs l).sym = s.sym := rfl
@[simp] theorem State.setInputs_symv : (s.setInputs l).symv = s.symv := rfl
@[simp] theorem State.setInputs_frames : (s.setInputs l).frames = s.frames := rfl
@[simp] theorem State.setInputs_eosf : (s.setInputs l).eosf = s.eosf := rfl
@[simp] theorem State.setInputs_cfgerr : (s.setInputs l).cfgerr = s.cfgerr := rfl
@[simp] theorem State.setInputs_seqerr : (s.setInputs l).seqerr = s.seqerr := rfl
@[simp] theorem State.setInputs_illcmd : (s.setInputs l).illcmd = s.illcmd := rfl
@[simp] theorem State.setInputs_enc : (s.setInputs l).enc = s.enc := rfl
@[simp] theorem State.setInputs_thresh : (s.setInputs l).thresh = s.thresh := rfl
@[simp] theorem State.setInputs_range : (s.setInputs l).range = s.range := rfl
@[simp] theorem State.setInputs_inputs : (s.setInputs l).inputs = l := rfl
@[simp] theorem State.setInputs_out : (s.setInputs l).out = s.out := rfl
@[simp] theorem State.setInputs_rsp : (s.setInputs l).rsp = s.rsp := rfl
end SetInputs

section ResetRegisters
variable (s : State)
@[simp] theorem State.resetRegisters_phase : s.resetRegisters.phase = State.reset.phase := rfl
@[simp] theorem State.resetRegisters_cnt : s.resetRegisters.cnt = State.reset.cnt := rfl
@[simp] theorem State.resetRegisters_fb : s.resetRegisters.fb = s.fb := rfl
@[simp] theorem State.resetRegisters_mf : s.resetRegisters.mf = State.reset.mf := rfl
@[simp] theorem State.resetRegisters_p : s.resetRegisters.p = State.reset.p := rfl
@[simp] theorem State.resetRegisters_on : s.resetRegisters.on = State.reset.on := rfl
@[simp] theorem State.resetRegisters_sym : s.resetRegisters.sym = State.reset.sym := rfl
@[simp] theorem State.resetRegisters_symv : s.resetRegisters.symv = State.reset.symv := rfl
@[simp] theorem State.resetRegisters_frames : s.resetRegisters.frames = State.reset.frames := rfl
@[simp] theorem State.resetRegisters_eosf : s.resetRegisters.eosf = State.reset.eosf := rfl
@[simp] theorem State.resetRegisters_cfgerr : s.resetRegisters.cfgerr = State.reset.cfgerr := rfl
@[simp] theorem State.resetRegisters_seqerr : s.resetRegisters.seqerr = State.reset.seqerr := rfl
@[simp] theorem State.resetRegisters_illcmd : s.resetRegisters.illcmd = State.reset.illcmd := rfl
@[simp] theorem State.resetRegisters_enc : s.resetRegisters.enc = State.reset.enc := rfl
@[simp] theorem State.resetRegisters_thresh : s.resetRegisters.thresh = State.reset.thresh := rfl
@[simp] theorem State.resetRegisters_range : s.resetRegisters.range = State.reset.range := rfl
@[simp] theorem State.resetRegisters_inputs : s.resetRegisters.inputs = s.inputs := rfl
@[simp] theorem State.resetRegisters_out : s.resetRegisters.out = s.out := rfl
@[simp] theorem State.resetRegisters_rsp : s.resetRegisters.rsp = s.rsp := rfl
end ResetRegisters

section Raise
variable (s : State) (e : ErrFlag)
@[simp] theorem State.raise_phase : (s.raise e).phase = s.phase := by cases e <;> rfl
@[simp] theorem State.raise_cnt : (s.raise e).cnt = s.cnt := by cases e <;> rfl
@[simp] theorem State.raise_fb : (s.raise e).fb = s.fb := by cases e <;> rfl
@[simp] theorem State.raise_mf : (s.raise e).mf = s.mf := by cases e <;> rfl
@[simp] theorem State.raise_p : (s.raise e).p = s.p := by cases e <;> rfl
@[simp] theorem State.raise_on : (s.raise e).on = s.on := by cases e <;> rfl
@[simp] theorem State.raise_sym : (s.raise e).sym = s.sym := by cases e <;> rfl
@[simp] theorem State.raise_symv : (s.raise e).symv = s.symv := by cases e <;> rfl
@[simp] theorem State.raise_frames : (s.raise e).frames = s.frames := by cases e <;> rfl
@[simp] theorem State.raise_eosf : (s.raise e).eosf = s.eosf := by cases e <;> rfl
@[simp] theorem State.raise_cfgerr : (s.raise e).cfgerr = (s.cfgerr || e == .cfgerr) := by cases e <;> simp [State.raise]
@[simp] theorem State.raise_seqerr : (s.raise e).seqerr = (s.seqerr || e == .seqerr) := by cases e <;> simp [State.raise]
@[simp] theorem State.raise_illcmd : (s.raise e).illcmd = (s.illcmd || e == .illcmd) := by cases e <;> simp [State.raise]
@[simp] theorem State.raise_enc : (s.raise e).enc = s.enc := by cases e <;> rfl
@[simp] theorem State.raise_thresh : (s.raise e).thresh = s.thresh := by cases e <;> rfl
@[simp] theorem State.raise_range : (s.raise e).range = s.range := by cases e <;> rfl
@[simp] theorem State.raise_inputs : (s.raise e).inputs = s.inputs := by cases e <;> rfl
@[simp] theorem State.raise_out : (s.raise e).out = s.out := by cases e <;> rfl
@[simp] theorem State.raise_rsp : (s.raise e).rsp = s.rsp := by cases e <;> rfl
end Raise

section FinishFrame
variable (s : State) (q : Vector Word 18) (v : Verdict)
@[simp] theorem State.finishFrame_phase : (s.finishFrame q v).phase = s.phase := rfl
@[simp] theorem State.finishFrame_cnt : (s.finishFrame q v).cnt = s.cnt := rfl
@[simp] theorem State.finishFrame_fb : (s.finishFrame q v).fb = s.fb := rfl
@[simp] theorem State.finishFrame_mf : (s.finishFrame q v).mf = v.mf := rfl
@[simp] theorem State.finishFrame_p : (s.finishFrame q v).p = q := rfl
@[simp] theorem State.finishFrame_on : (s.finishFrame q v).on = v.on := rfl
@[simp] theorem State.finishFrame_sym : (s.finishFrame q v).sym = v.sym := rfl
@[simp] theorem State.finishFrame_symv : (s.finishFrame q v).symv = true := rfl
@[simp] theorem State.finishFrame_frames : (s.finishFrame q v).frames = s.frames + 1 := rfl
@[simp] theorem State.finishFrame_eosf : (s.finishFrame q v).eosf = s.eosf := rfl
@[simp] theorem State.finishFrame_cfgerr : (s.finishFrame q v).cfgerr = s.cfgerr := rfl
@[simp] theorem State.finishFrame_seqerr : (s.finishFrame q v).seqerr = s.seqerr := rfl
@[simp] theorem State.finishFrame_illcmd : (s.finishFrame q v).illcmd = s.illcmd := rfl
@[simp] theorem State.finishFrame_enc : (s.finishFrame q v).enc = s.enc := rfl
@[simp] theorem State.finishFrame_thresh : (s.finishFrame q v).thresh = s.thresh := rfl
@[simp] theorem State.finishFrame_range : (s.finishFrame q v).range = s.range := rfl
@[simp] theorem State.finishFrame_inputs : (s.finishFrame q v).inputs = s.inputs := rfl
@[simp] theorem State.finishFrame_out : (s.finishFrame q v).out = s.out ++ [symbolWord v.sym] := rfl
@[simp] theorem State.finishFrame_rsp : (s.finishFrame q v).rsp = s.rsp := rfl
end FinishFrame

section ResetFormat
variable {F : Type} (A : Format F) (s : State)
@[simp] theorem State.resetFormat_phase : (s.resetFormat A).phase = s.phase := rfl
@[simp] theorem State.resetFormat_cnt : (s.resetFormat A).cnt = s.cnt := rfl
@[simp] theorem State.resetFormat_fb : (s.resetFormat A).fb = s.fb := rfl
@[simp] theorem State.resetFormat_mf : (s.resetFormat A).mf = s.mf := rfl
@[simp] theorem State.resetFormat_p : (s.resetFormat A).p = Vector.replicate 18 (A.bits 0#32 A.zero) := rfl
@[simp] theorem State.resetFormat_on : (s.resetFormat A).on = s.on := rfl
@[simp] theorem State.resetFormat_sym : (s.resetFormat A).sym = s.sym := rfl
@[simp] theorem State.resetFormat_symv : (s.resetFormat A).symv = s.symv := rfl
@[simp] theorem State.resetFormat_frames : (s.resetFormat A).frames = s.frames := rfl
@[simp] theorem State.resetFormat_eosf : (s.resetFormat A).eosf = s.eosf := rfl
@[simp] theorem State.resetFormat_cfgerr : (s.resetFormat A).cfgerr = s.cfgerr := rfl
@[simp] theorem State.resetFormat_seqerr : (s.resetFormat A).seqerr = s.seqerr := rfl
@[simp] theorem State.resetFormat_illcmd : (s.resetFormat A).illcmd = s.illcmd := rfl
@[simp] theorem State.resetFormat_enc : (s.resetFormat A).enc = s.enc := rfl
@[simp] theorem State.resetFormat_thresh : (s.resetFormat A).thresh = ratPattern A 100 1 := rfl
@[simp] theorem State.resetFormat_range : (s.resetFormat A).range = ratPattern A 1 10 := rfl
@[simp] theorem State.resetFormat_inputs : (s.resetFormat A).inputs = s.inputs := rfl
@[simp] theorem State.resetFormat_out : (s.resetFormat A).out = s.out := rfl
@[simp] theorem State.resetFormat_rsp : (s.resetFormat A).rsp = s.rsp := rfl
end ResetFormat

end Sys2Proof.Machine
end

