-- ==== Sys2Proof/Laws/Exec.lean ====
section
/-! SUPPORT. What each command can do, said once: every meaning answers a next state, in one of the ways listed. -/

namespace Sys2Proof.Machine

theorem execStart_run {s : State} (h : s.phase = .run) : execStart s = .next (s.raise .seqerr) := by
  simp [execStart, h]

theorem execStart_idle {s : State} (h : s.phase = .idle) :
    execStart s = .next (if encSupported s.enc then s.openSession else s.raise .cfgerr) := by
  simp only [execStart, h]; split <;> rfl

theorem execSample_idle {s : State} (b : Byte) (h : s.phase = .idle) : execSample b s = .next (s.raise .seqerr) := by
  simp [execSample, execSampleIn, h]

theorem execSample_run {s : State} (b : Byte) (h : s.phase = .run) : execSample b s = .next (s.acceptSample fmt b) := by
  simp [execSample, execSampleIn, h]

theorem execEos_idle {s : State} (h : s.phase = .idle) : execEos s = .next (s.raise .seqerr) := by
  simp [execEos, h]

theorem execEos_run {s : State} (h : s.phase = .run) :
    execEos s = .next (s.closeSession.appendOut endWord) := by
  simp [execEos, h]

theorem execWrcsr_run {s : State} (a : CsrAddr) (v : Word) (h : s.phase = .run) :
    execWrcsr a v s = .next (s.raise .seqerr) := by
  simp [execWrcsr, h]

/-- What a `WRCSR` in `IDLE` writes. -/
theorem execWrcsr_idle {s : State} (a : CsrAddr) (v : Word) (h : s.phase = .idle) :
    execWrcsr a v s =
      .next (if Csr.ofAddr a = some .cfg then s.writeCfg v
        else if Csr.ofAddr a = some .thresh then s.writeThresh v
        else if Csr.ofAddr a = some .range then s.writeRange v
        else s.raise .illcmd) := by
  simp only [execWrcsr, h]
  rcases Csr.ofAddr a with _ | c
  · rfl
  · cases c <;> rfl

theorem execRdcsr_some {s : State} {a : CsrAddr} {c : Csr} (h : Csr.ofAddr a = some c) :
    execRdcsr a s = .next (s.appendRsp (s.readCsr c)) := by
  simp [execRdcsr, h]

theorem execRdcsr_none {s : State} {a : CsrAddr} (h : Csr.ofAddr a = none) :
    execRdcsr a s = .next ((s.appendRsp 0#32).raise .illcmd) := by
  simp [execRdcsr, h]

/-- Everything a command can do. -/
theorem exec_cases (i : Instr) (s : State) :
    (i = .nop ∧ exec i s = .next s) ∨
    (i = .reset ∧ exec i s = .next s.resetRegisters) ∨
    (i = .start ∧ s.phase = .idle ∧ encSupported s.enc = true ∧ exec i s = .next s.openSession) ∨
    (i = .start ∧ s.phase = .idle ∧ encSupported s.enc = false ∧ exec i s = .next (s.raise .cfgerr)) ∨
    (∃ b, i = .sample b ∧ s.phase = .run ∧ exec i s = .next (s.acceptSample fmt b)) ∨
    (i = .eos ∧ s.phase = .run ∧ exec i s = .next (s.closeSession.appendOut endWord)) ∨
    (((∃ b, i = .sample b) ∨ i = .eos) ∧ s.phase = .idle ∧ exec i s = .next (s.raise .seqerr)) ∨
    ((i = .start ∨ ∃ a v, i = .wrcsr a v) ∧ s.phase = .run ∧ exec i s = .next (s.raise .seqerr)) ∨
    (∃ a v, i = .wrcsr a v ∧ s.phase = .idle ∧ Csr.ofAddr a = some .cfg ∧ exec i s = .next (s.writeCfg v)) ∨
    (∃ a v, i = .wrcsr a v ∧ s.phase = .idle ∧ Csr.ofAddr a = some .thresh ∧ exec i s = .next (s.writeThresh v)) ∨
    (∃ a v, i = .wrcsr a v ∧ s.phase = .idle ∧ Csr.ofAddr a = some .range ∧ exec i s = .next (s.writeRange v)) ∨
    (∃ a v, i = .wrcsr a v ∧ s.phase = .idle ∧ Csr.ofAddr a ≠ some .cfg ∧ Csr.ofAddr a ≠ some .thresh ∧
      Csr.ofAddr a ≠ some .range ∧ exec i s = .next (s.raise .illcmd)) ∨
    (∃ a c, i = .rdcsr a ∧ Csr.ofAddr a = some c ∧ exec i s = .next (s.appendRsp (s.readCsr c))) ∨
    (∃ a, i = .rdcsr a ∧ Csr.ofAddr a = none ∧ exec i s = .next ((s.appendRsp 0#32).raise .illcmd)) ∨
    (∃ x, i = .reservedOp6 x ∧ exec i s = .next (s.raise .illcmd)) := by
  cases i with
  | nop => exact .inl ⟨rfl, rfl⟩
  | reset => exact .inr (.inl ⟨rfl, rfl⟩)
  | reservedOp6 x => simp [exec, execReservedOp6, State.rejectWord]
  | start =>
    rcases hp : s.phase with _ | _
    · rcases he : encSupported s.enc with _ | _ <;> simp [exec, execStart_idle hp, he]
    · simp [exec, execStart_run hp]
  | sample b =>
    rcases hp : s.phase with _ | _
    · simp [exec, execSample_idle b hp]
    · simp [exec, execSample_run b hp]
  | eos =>
    rcases hp : s.phase with _ | _
    · simp [exec, execEos_idle hp]
    · simp [exec, execEos_run hp]
  | wrcsr a v =>
    rcases hp : s.phase with _ | _
    · simp only [exec, execWrcsr_idle a v hp]
      rcases hc : Csr.ofAddr a with _ | c
      · simp [hc]
      · cases c <;> simp [hc]
    · simp [exec, execWrcsr_run a v hp]
  | rdcsr a =>
    rcases hc : Csr.ofAddr a with _ | c
    · simp [exec, execRdcsr_none hc, hc]
    · simp [exec, execRdcsr_some hc, hc]

/-- No command faults and none is refused (R127, R155). -/
theorem exec_isNext (i : Instr) (s : State) : ∃ t, exec i s = .next t := by
  rcases exec_cases i s with h | h | h | h | h | h | h | h | h | h | h | h | h | h | h <;> grind

theorem execDecoded_isNext (d : Decoded) (s : State) : ∃ t, execDecoded d s = .next t := by
  cases d with
  | instr i => exact exec_isNext i s
  | illegal _ => exact ⟨_, rfl⟩

theorem takeMove_nil {s : State} (h : s.inputs = []) : takeMove s = .next s := by
  simp [takeMove, takeMoveBy, h]

theorem takeMove_command {s : State} {w : CmdWord} {l : List HostMove} (h : s.inputs = .command w :: l) :
    takeMove s = execDecoded (decode w) (s.setInputs l) := by
  simp [takeMove, takeMoveBy, h, execDecoded]

theorem takeMove_reset {s : State} {l : List HostMove} (h : s.inputs = .resetInput :: l) :
    takeMove s = .next (s.setInputs l).resetRegisters := by
  simp [takeMove, takeMoveBy, h, exec, execReset]

theorem runAll_cons {α : Type} {run : α → State → Host.Outcome State Fault Refusal} {x : α} {s t : State} (xs : List α)
    (h : run x s = .next t) : runAll run (x :: xs) s = runAll run xs t := by
  simp [runAll, h]

/-- A run in two parts. -/
theorem runAll_append {α : Type} {run : α → State → Host.Outcome State Fault Refusal} {xs : List α} {s t : State}
    (ys : List α) (h : runAll run xs s = .next t) : runAll run (xs ++ ys) s = runAll run ys t := by
  induction xs generalizing s with
  | nil => simp only [runAll, Host.Outcome.next.injEq] at h; rw [h]; rfl
  | cons x xs ih =>
    rcases hx : run x s with u | u | u
    · rw [runAll_cons xs hx] at h
      rw [List.cons_append, runAll_cons (xs ++ ys) hx, ih h]
    · simp [runAll, hx] at h
    · simp [runAll, hx] at h

theorem acceptSample_last {F : Type} (A : Format F) {s : State} (b : Byte) (h : s.cnt = 239) :
    s.acceptSample A b = ((s.fbWrite s.cnt b).setCnt 0).frameDone A := by simp [State.acceptSample, h]

theorem acceptSample_next {F : Type} (A : Format F) {s : State} (b : Byte) (h : s.cnt.val < 239) :
    s.acceptSample A b = (s.fbWrite s.cnt b).setCnt (cntSucc s.cnt) := by
  simp [State.acceptSample, Nat.ne_of_lt h]

/-- `FRAME_DONE` field by field (R57): the buffer, the configuration and everything not named stay. -/
theorem frameDone_eq {F : Type} (A : Format F) (s : State) :
    s.frameDone A =
      { s with
        p := s.powerBits A (s.framePowers A), on := (s.verdictOn A (s.framePowers A)).on,
        sym := (s.verdictOn A (s.framePowers A)).sym, symv := true, mf := (s.verdictOn A (s.framePowers A)).mf,
        frames := s.frames + 1, out := s.out ++ [symbolWord (s.verdictOn A (s.framePowers A)).sym] } :=
  State.ext rfl rfl rfl rfl rfl rfl rfl rfl rfl rfl rfl rfl rfl rfl rfl rfl rfl rfl rfl

theorem cntSucc_val {c : Fin 240} (h : c.val < 239) : (cntSucc c).val = c.val + 1 := by simp [cntSucc, h]

end Sys2Proof.Machine
end

