-- ==== Sys2Proof/Laws/Formats.lean ====
section
/-! SUPPORT. The machine is the machine of formats at the default format. -/

namespace Sys2Proof.Machine

/-- The reset patterns of R16, R22 and R23 are the images of `+0.0`, `F(100)` and `F(1/10)` (R49). -/
theorem resetPatterns_fmt : fmt.bits 0#32 fmt.zero = 0x00000000#32 ∧ ratPattern fmt 100 1 = Config.threshReset ∧
    ratPattern fmt 1 10 = Config.rangeReset := by decide +kernel

theorem resetFormat_fmt (s : State) : s.resetRegisters.resetFormat fmt = s.resetRegisters := by
  obtain ⟨hz, ht, hr⟩ := resetPatterns_fmt
  simp only [State.resetFormat, hz, ht, hr]
  rfl

theorem resetIn_fmt : State.resetIn fmt = State.reset := resetFormat_fmt State.reset

theorem execIn_fmt : execIn fmt = exec := by
  funext i s
  cases i with
  | reset => exact congrArg Host.Outcome.next (resetFormat_fmt s)
  | nop | sample | eos | start | wrcsr | rdcsr | reservedOp6 => rfl

theorem execWordIn_fmt : execWordIn fmt = execWord := by
  funext w s; simp only [execWordIn, execIn_fmt]; rfl

theorem runWordsIn_fmt : runWordsIn fmt = runWords := by
  funext ws s; simp only [runWordsIn, execWordIn_fmt]; rfl

theorem stepIn_fmt : stepIn fmt = step := by
  funext s; simp only [stepIn, execIn_fmt]; rfl

theorem coreIn_fmt : coreIn fmt = Sys2Proof.core := by
  simp only [coreIn, stepIn_fmt, resetIn_fmt]; rfl

end Sys2Proof.Machine
end

