-- ==== Sys2Proof/Laws/Memory.lean ====
section
/-! SUPPORT. The laws of the frame buffer: what a write leaves, and that every operation keeps the canonical form. -/

namespace Sys2Proof.Machine

theorem Memory.wf_nil : Memory.wf [] := by simp [Memory.wf]

theorem Memory.wf_tail {c : Host.Cell} {m : Memory} (h : Memory.wf (c :: m)) : Memory.wf m :=
  ⟨(List.pairwise_cons.mp h.1).2, fun x hx => h.2 x (List.mem_cons_of_mem _ hx)⟩

theorem Memory.wf_cons_iff {a : Nat} {b : Byte} {m : Memory} :
    Memory.wf ((a, b) :: m) ↔
      (∀ c ∈ m, a < c.1) ∧ a < Config.frameLength ∧ b ≠ Memory.unlisted ∧ Memory.wf m := by
  simp only [Memory.wf, List.pairwise_cons, List.forall_mem_cons]
  tauto

theorem Memory.wf_cons {a : Nat} {b : Byte} {m : Memory} (ha : a < Config.frameLength) (hm : Memory.wf m)
    (hlt : ∀ c ∈ m, a < c.1) : Memory.wf (Memory.cons a b m) := by
  unfold Memory.cons
  split
  · exact hm
  · exact Memory.wf_cons_iff.mpr ⟨hlt, ha, ‹_›, hm⟩

/-- An address below every listed one reads as an unlisted address. -/
theorem Memory.read_of_lt {m : Memory} {a : Nat} (h : ∀ c ∈ m, a < c.1) : m.read a = Memory.unlisted := by
  induction m with
  | nil => rfl
  | cons c m ih =>
    have hc := h c (List.mem_cons_self ..)
    simp only [Memory.read, if_neg (by omega : ¬ c.1 = a)]
    exact ih fun x hx => h x (List.mem_cons_of_mem _ hx)

theorem Memory.read_cons {a x : Nat} {b : Byte} {m : Memory} (hlt : ∀ c ∈ m, a < c.1) :
    (Memory.cons a b m).read x = if x = a then b else m.read x := by
  unfold Memory.cons
  split
  · next hb =>
    split
    · next hx => rw [hx, Memory.read_of_lt hlt, hb]
    · rfl
  · simp only [Memory.read, eq_comm (a := a)]

/-- Every entry of a written memory is an old one or the byte written. -/
theorem Memory.mem_write {m : Memory} {a : Nat} {b : Byte} {c : Host.Cell} (h : c ∈ m.write a b) :
    c ∈ m ∨ c = (a, b) := by
  have hcons : ∀ l : Memory, c ∈ Memory.cons a b l → c ∈ l ∨ c = (a, b) := by
    intro l hl
    unfold Memory.cons at hl
    split at hl
    · exact .inl hl
    · exact (List.mem_cons.mp hl).symm
  induction m with
  | nil => exact hcons [] h
  | cons d m ih =>
    simp only [Memory.write] at h
    split at h
    · exact hcons _ h
    · split at h
      · exact (hcons m h).imp_left (List.mem_cons_of_mem _)
      · rcases List.mem_cons.mp h with rfl | h
        · exact .inl (List.mem_cons_self ..)
        · exact (ih h).imp_left (List.mem_cons_of_mem _)

/-- A write keeps the canonical form. -/
theorem Memory.wf_write {m : Memory} {a : Nat} (b : Byte) (hm : m.wf) (ha : a < Config.frameLength) :
    (m.write a b).wf := by
  induction m with
  | nil => exact Memory.wf_cons ha Memory.wf_nil (by simp)
  | cons d m ih =>
    obtain ⟨hlt, hd, hne, hw⟩ := Memory.wf_cons_iff.mp (show Memory.wf ((d.1, d.2) :: m) from hm)
    simp only [Memory.write]
    split
    · next h => exact Memory.wf_cons ha hm (List.forall_mem_cons.mpr ⟨h, fun c hc => h.trans (hlt c hc)⟩)
    · split
      · next h => exact Memory.wf_cons ha hw (h ▸ hlt)
      · refine Memory.wf_cons_iff.mpr ⟨fun c hc => ?_, hd, hne, ih hw⟩
        rcases Memory.mem_write hc with hc | rfl
        · exact hlt c hc
        · simp only; omega

/-- Reading after a write: the byte written at its address, the old byte everywhere else. -/
theorem Memory.read_write {m : Memory} (hm : m.wf) (a x : Nat) (b : Byte) :
    (m.write a b).read x = if x = a then b else m.read x := by
  induction m with
  | nil => exact Memory.read_cons (by simp)
  | cons d m ih =>
    obtain ⟨hlt, -, -, hw⟩ := Memory.wf_cons_iff.mp (show Memory.wf ((d.1, d.2) :: m) from hm)
    simp only [Memory.write]
    split
    · next h => exact Memory.read_cons (List.forall_mem_cons.mpr ⟨h, fun c hc => h.trans (hlt c hc)⟩)
    · split
      · next h => rw [Memory.read_cons (h ▸ hlt)]; simp only [Memory.read, h, eq_comm (a := a)]; split <;> rfl
      · simp only [Memory.read, ih hw]
        split <;> split <;> first | rfl | omega

/-- The frame is made of the 240 reads alone. -/
theorem Memory.frame_congr {m n : Memory} (h : ∀ i, i < Config.frameLength → m.read i = n.read i) :
    m.frame = n.frame := by
  unfold Memory.frame
  exact List.map_congr_left fun i hi => h i (List.mem_range.mp hi)

@[simp] theorem Memory.length_frame (m : Memory) : m.frame.length = 240 := by simp [Memory.frame]

/-- Byte `i` of the frame is the read of address `i` (R31). -/
@[simp] theorem Memory.getElem_frame (m : Memory) (i : Nat) (h : i < m.frame.length) : m.frame[i] = m.read i := by
  simp [Memory.frame]

theorem State.wf_fbWrite {s : State} (h : s.fb.wf) (i : Fin 240) (b : Byte) : (s.fbWrite i b).fb.wf :=
  Memory.wf_write b h i.isLt

end Sys2Proof.Machine
end

