-- ==== Sys2Proof/Laws/PerInstr.lean ====
section
/-! SUPPORT. The statement family `OpField`: the word of every instruction carries its row's opcode (R42). -/

namespace Sys2Proof

/-- `OP` of the row (R42). -/
def Laws.OpField.opcode : Instr → BitVec 3
  | .nop => 0
  | .sample _ => 1
  | .eos => 2
  | .start => 3
  | .wrcsr _ _ => 4
  | .rdcsr _ => 5
  | .reset => 7
  | .reservedOp6 _ => 6

/-- Bits 39..37 of the instruction's word are its opcode. -/
def Laws.OpField.Statement (i : Instr) : Prop := fieldOp (encode i) = Laws.OpField.opcode i

theorem Laws.OpField.nop : Laws.OpField.Statement .nop := fieldOp_pack ..

theorem Laws.OpField.sample (b : Byte) : Laws.OpField.Statement (.sample b) := fieldOp_pack ..

theorem Laws.OpField.eos : Laws.OpField.Statement .eos := fieldOp_pack ..

theorem Laws.OpField.start : Laws.OpField.Statement .start := fieldOp_pack ..

theorem Laws.OpField.wrcsr (a : CsrAddr) (v : Word) : Laws.OpField.Statement (.wrcsr a v) := fieldOp_pack ..

theorem Laws.OpField.rdcsr (a : CsrAddr) : Laws.OpField.Statement (.rdcsr a) := fieldOp_pack ..

theorem Laws.OpField.reset : Laws.OpField.Statement .reset := fieldOp_pack ..

theorem Laws.OpField.reservedOp6 (x : BitVec 37) : Laws.OpField.Statement (.reservedOp6 x) := by
  change fieldOp (6#3 ++ x) = 6#3
  rw [← reserved_split x, ← reserved_pack, fieldOp_pack]

end Sys2Proof
end

