-- ==== Sys2Proof/Tests/Slice0.lean ====
section
/-! SUPPORT. Tests of one word or one step against vectors of spec/95_test_vectors.md and rules of spec/, and for every
statement with hypotheses a witness of them. -/

open Sys2Proof Sys2Proof.Machine

namespace Sys2Proof.Tests

/-- An open session with `c` bytes of the frame in. -/
def runAt (c : Fin 240) : State := { State.reset with phase := .run, cnt := c }

/-- A state in `IDLE` with encoding `e`. -/
def idleEnc (e : BitVec 2) : State := { State.reset with enc := e }

/-- The state an outcome goes on in; `d` where it stops. -/
def nextOr (d : State) : Host.Outcome State Fault Refusal → State
  | .next t => t
  | _ => d

/-- After one command. -/
def after (i : Instr) (s : State) : State := nextOr s (exec i s)

/-- `bits` of a value that is no NaN. -/
def bits (x : B32) : Word := x.toBits 0#32

/-- 18 powers, `hi` at the bins of `js` and `lo` at the others. -/
def powers (hi : Word) (lo : Word) (js : List (Fin 18)) : Vector B32 18 :=
  Vector.ofFn fun j => B32.ofBits (if j ∈ js then hi else lo)

/-- The verdict on powers with the thresholds given as patterns. -/
def verdict (p : Vector B32 18) (thresh range : Word) : Verdict :=
  classify fmt p (B32.ofBits thresh) (B32.ofBits range) false

/-- `k` bytes of a number, the most significant first. -/
def bytesOf : Nat → Nat → List Byte
  | 0, _ => []
  | k + 1, n => BitVec.ofNat 8 (n / 256 ^ k) :: bytesOf k n

/-! ### Decoding: words of 95_test_vectors.md 2.1 -/

theorem test_decode_nop : decode 0x0000000000#40 = .instr .nop := by decide
theorem test_decode_sample : decode 0x20000000FF#40 = .instr (.sample 0xFF) := by decide
theorem test_decode_sample_stray : decode 0x2000000100#40 = .illegal .straySample ∧
    decode 0x2100000012#40 = .illegal .straySample := by decide
theorem test_decode_eos : decode 0x4000000000#40 = .instr .eos ∧ decode 0x4000000001#40 = .illegal .strayEos := by decide
theorem test_decode_start : decode 0x6000000000#40 = .instr .start ∧ decode 0x7F00000000#40 = .illegal .strayStart := by
  decide
theorem test_decode_wrcsr : decode 0x823E4CCCCD#40 = .instr (.wrcsr 2 0x3E4CCCCD) ∧
    decode 0x9FFFFFFFFF#40 = .instr (.wrcsr 0x1F 0xFFFFFFFF) := by decide
theorem test_decode_rdcsr : decode 0xB900000000#40 = .instr (.rdcsr 0x19) ∧
    decode 0xA300000001#40 = .illegal .strayRdcsr := by decide
theorem test_decode_reserved : decode 0xC000000000#40 = .instr (.reservedOp6 0) ∧
    decode 0xDFFFFFFFFF#40 = .instr (.reservedOp6 0x1FFFFFFFFF) := by decide
theorem test_decode_reset : decode 0xE000000000#40 = .instr .reset ∧ decode 0xFFFFFFFFFF#40 = .illegal .strayReset := by
  decide

/-- The words of program P2. -/
theorem test_encode : encode (.wrcsr 0 1) = 0x8000000001#40 ∧ encode (.sample 0xC4) = 0x20000000C4#40 ∧
    encode (.rdcsr 0x12) = 0xB200000000#40 ∧ encode .reset = 0xE000000000#40 := by decide

/-- No two rows of R42 share a word: two patterns differ in a bit both masks look at. -/
theorem test_rows_disjoint :
    opcodeRows.Pairwise (fun r q => r.pattern &&& (r.mask &&& q.mask) ≠ q.pattern &&& (r.mask &&& q.mask)) := by decide

theorem test_decodeTableWord : decodeTableWord 40 0x60_0000_0000 = some .start ∧
    decodeTableWord 40 0x60_0000_0001 = none ∧ decodeTableWord 41 0 = none := by decide

/-! ### Well-formedness -/

theorem test_frame_too_short : (Pseudo.frame []).wf = false := by decide
theorem test_threshold_over_zero : (Pseudo.setthresh 1 0).wf = false ∧ (Pseudo.setrange 1 0).wf = false := by decide
theorem test_reserved_is_no_command : (Instr.reservedOp6 0).isCommand = false ∧ (Instr.reservedOp6 0).wf = true := by decide
theorem test_pseudo_ok : (Pseudo.frame (List.replicate 240 0)).wf = true ∧ (Pseudo.setrange 1 5).wf = true := by decide +kernel

/-- R51: `SETRANGE 0.2` writes `0x3E4CCCCD` (W12), and the default threshold is 100.0 (R22). -/
theorem test_pseudo_patterns : (Pseudo.setrange 1 5).expand = [.wrcsr 2 0x3E4CCCCD] ∧
    (Pseudo.setthresh 100 1).expand = [.wrcsr 1 0x42C80000] := by decide +kernel

theorem test_asm : asm (.wrcsr 1 0x42C80000) = "WRCSR THRESH, 0x42C80000" ∧ asm (.rdcsr 0x1A) = "RDCSR 0x1A" := by
  decide +kernel

/-! ### One step each: 95_test_vectors.md 2.2 and 2.6 -/

/-- G2. -/
theorem test_start : (after .start State.reset).statusWord = 0x00000001 := by decide
/-- G18. -/
theorem test_start_refused : (after .start (idleEnc 2)).statusWord = 0x00000008 := by decide
/-- G7, G10. -/
theorem test_sample : (after (.sample 0) (runAt 238)).statusWord = 0x0000EF01 ∧
    (after (.sample 0x55) State.reset).statusWord = 0x00000010 := by decide
theorem test_sample_stores : (after (.sample 0x55) (runAt 7)).fb = [(7, 0x55)] := by decide
/-- G9, G11. -/
theorem test_eos : (after .eos (runAt 5)).statusWord = 0x00000002 ∧ (after .eos (runAt 5)).out = [0x20] := by decide
theorem test_eos_idle : (after .eos State.reset).statusWord = 0x00000010 ∧ (after .eos State.reset).out = [] := by decide
/-- X1, X5. -/
theorem test_wrcsr_cfg : (after (.wrcsr 0 0xFFFFFFFD) State.reset).readCsr .cfg = 1 := by decide
theorem test_wrcsr_refused : (after (.wrcsr 3 0xFFFFFFFF) State.reset).statusWord = 0x00000020 ∧
    (after (.wrcsr 3 0) (runAt 0)).statusWord = 0x00000011 := by decide
/-- The table of 2.6, X7. -/
theorem test_rdcsr : (after (.rdcsr 5) State.reset).rsp = [0x0000001B] ∧ (after (.rdcsr 2) State.reset).rsp = [0x3DCCCCCD] := by
  decide
theorem test_rdcsr_reserved : (after (.rdcsr 7) State.reset).rsp = [0] ∧
    (after (.rdcsr 7) State.reset).statusWord = 0x00000020 := by decide
/-- G14. -/
theorem test_reset : (after .reset (runAt 100)).statusWord = 0 ∧ (after .reset (runAt 100)).out = [] := by decide
theorem test_nop : after .nop (runAt 100) = runAt 100 := by decide
theorem test_reserved : (after (.reservedOp6 1) State.reset).statusWord = 0x00000020 := by decide

theorem test_step_runs_word : step (State.reset.withFetchWord 40 0x6000000000) = exec .start State.reset := by
  rfl

/-! ### Samples and the estimator: 95_test_vectors.md 2.3 and 2.4 -/

theorem test_norm : bits (norm fmt 0 0x7F) = 0x3F7E0000 ∧ bits (norm fmt 0 0x80) = 0xBF800000 ∧
    bits (norm fmt 1 0x00) = 0xBF800000 ∧ bits (norm fmt 1 0x7F) = 0xBC000000 := by decide +kernel

/-- IEEE 754: `-0 + -0` is `-0`, `1 - 1` is `+0`, `0 · -1` is `-0`, and the greatest value doubled is infinite. -/
theorem test_arithmetic_corners :
    bits (B32.add (B32.ofBits 0x80000000) (B32.ofBits 0x80000000)) = 0x80000000 ∧
    bits (B32.sub (B32.ofBits 0x3F800000) (B32.ofBits 0x3F800000)) = 0x00000000 ∧
    bits (B32.mul (B32.ofBits 0x00000000) (B32.ofBits 0xBF800000)) = 0x80000000 ∧
    bits (B32.add (B32.ofBits 0x7F7FFFFF) (B32.ofBits 0x7F7FFFFF)) = 0x7F800000 := by decide +kernel

/-- E3, bins 0 and 1: the last two samples of the frame, the earlier zeros leaving the lane at its start. -/
theorem test_impulse : bits (lanePower binary32.toArith (coef binary32 0) (normFrame binary32 0 [0x40, 0])) = 0x3E800002 ∧
    bits (lanePower binary32.toArith (coef binary32 1) (normFrame binary32 0 [0x40, 0])) = 0x3E7FFFFC := by decide +kernel

/-- `F_KP1` (95_test_vectors.md Part 4). -/
def frameKp1 : List Byte := bytesOf 240
  0x005849F4C7E505F8EE184827C79CE1424E0ADBEB00EBDB0A4E42E19CC7274818EEF805E5C7F4495800A8B70C391BFB0812E8B8D939641FBEB2F62515001525F6B2BE1F6439D9B8E81208FB1B390CB7A8005849F4C7E505F8EE184827C79CE1424E0ADBEB00EBDB0A4E42E19CC7274818EEF805E5C7F4495800A8B70C391BFB0812E8B8D939641FBEB2F62515001525F6B2BE1F6439D9B8E81208FB1B390CB7A8005849F4C7E505F8EE184827C79CE1424E0ADBEB00EBDB0A4E42E19CC7274818EEF805E5C7F4495800A8B70C391BFB0812E8B8D939641FBEB2F62515001525F6B2BE1F6439D9B8E81208FB1B390CB7A8

set_option maxRecDepth 4000 in
/-- E18, bin 9, over the whole frame. -/
theorem test_kp1_lane : bits (lanePower binary32.toArith (coef binary32 9) (normFrame binary32 0 frameKp1)) = 0x450D49E0 := by
  decide +kernel

/-- R75: the index column is `round(240·f/8000)` of the frequency column. -/
theorem test_bin_index : ∀ j : Bin, binIndex j = (2 * Config.frameLength * nominalHz j + Config.sampleRate) /
    (2 * Config.sampleRate) := by decide

/-- R75, R76: the frequency that decides the index is one the bin serves, and bin 4 is centred on 700 Hz. -/
theorem test_bin_frequencies : (∀ j : Bin, nominalHz j ∈ servesHz j) ∧ centreHz 4 = 700 ∧
    ((List.finRange 18).flatMap servesHz).length = 20 := by decide +kernel

/-- R75's exact decimals of `COEF[12]` and `COEF[16]`'s sign, and R69's rationals with some image of `F(1/10)`. -/
theorem test_formats : coef (rationalFormat (fun _ => 0) (fun _ => 0)) 12 = 1 ∧
    coef (rationalFormat (fun _ => 0) (fun _ => 0)) 16 < 0 ∧
    (State.resetIn (rationalFormat (fun x => if x = 1 / 10 then 7 else 0) (fun _ => 0))).range = 7 := by decide +kernel

/-! ### The classifier: 95_test_vectors.md 2.5 -/

/-- K1, K3. -/
theorem test_floor : verdict (powers 0x42C7FFFF 0 [4, 10]) 0x42C80000 0x3DCCCCCD = ⟨.silence, 0, false⟩ ∧
    verdict (powers 0x42C80000 0 [4, 10]) 0x42C80000 0x3DCCCCCD = ⟨.d1, 0x00410, false⟩ := by decide +kernel
/-- K4: equal to the cutoff is off. -/
theorem test_cutoff_strict : (verdict ((powers 0x447A0000 0 [4]).set 10 (B32.ofBits 0x42C80000)) 0x42C80000 0x3DCCCCCD).on =
    0x00010 := by decide +kernel
/-- K13, K14, K17. -/
theorem test_nan_thresholds : (verdict (powers 0x447A0000 0 [4, 10]) 0x42C80000 0x7FC00000).sym = .silence ∧
    (verdict (powers 0x447A0000 0 [4, 10]) 0x7FC00000 0x3DCCCCCD).sym = .d1 := by decide +kernel
theorem test_negative_range : (verdict (powers 0x447A0000 0 [4, 10]) 0x42C80000 0xBF000000).on = 0x3FFFF := by decide +kernel
/-- Tables CS and CP. -/
theorem test_single : decideOnSet 0x10000 false = (.s2400, false) ∧ decideOnSet 0x00010 true = (.invalid, true) := by decide
theorem test_bracket : decideOnSet (pairMask 4 13) false = (.d3, false) ∧ decideOnSet (pairMask 4 13) true = (.d7, true) ∧
    decideOnSet (pairMask 9 15) false = (.kp1, true) ∧ decideOnSet (pairMask 13 15) true = (.st, false) := by decide
theorem test_pair_count : pairTable.length = 34 := by decide

/-! ### The Formatter: 95_test_vectors.md 2.7 -/

/-- FM8 and FM9. -/
theorem test_formatter : Formatter.session [.d1, .d1, .d2] 100 = some [.symbol .d1, .newline] ∧
    Formatter.session [.d1, .silence, .d1] 100 = some [.symbol .d1, .symbol .d1, .newline] := by decide

/-- R115: the threshold 0 is refused at set-up, also before a stream; FM12 with the threshold 3. -/
theorem test_flush_threshold : Formatter.session [.d1] 0 = none ∧ Formatter.stream [0x20] (-1) = none ∧
    Formatter.session [.silence, .silence, .silence, .d9, .d9, .silence, .silence, .silence] 3 =
      some [.newline, .symbol .d9, .newline, .newline] := by decide

/-! ### Witnesses: states and operands that meet the hypotheses of each statement, clause by clause -/

theorem witness_EncodingADecodedWord : decode 0x9FFFFFFFFF#40 = .instr (.wrcsr 0x1F 0xFFFFFFFF) := by decide

theorem witness_TableRowsSelectTheirCommand :
    (⟨"SAMPLE", 0x2000000000, 0xFFFFFFFF00⟩ : OpcodeRow) ∈ opcodeRows ∧
    0x20000000FF#40 &&& 0xFFFFFFFF00 = 0x2000000000 := by decide

/-- One word for each way a word is illegal, and one that is not. -/
theorem witness_IllegalWordsAreDropped :
    (0xC000000000#40).extractLsb' 37 3 = 6 ∧
    ((0x0000000001#40).extractLsb' 37 3 = 0 ∧ (0x0000000001#40).extractLsb' 0 32 ≠ 0) ∧
    ((0x4100000000#40).extractLsb' 37 3 = 2 ∧ (0x4100000000#40).extractLsb' 32 5 ≠ 0) ∧
    ((0x7F00000000#40).extractLsb' 37 3 = 3 ∧ (0x7F00000000#40).extractLsb' 32 5 ≠ 0) ∧
    ((0xE080000000#40).extractLsb' 37 3 = 7 ∧ (0xE080000000#40).extractLsb' 0 32 ≠ 0) ∧
    ((0x2000000100#40).extractLsb' 37 3 = 1 ∧ ((0x2000000100#40).extractLsb' 0 32).extractLsb' 8 24 ≠ 0) ∧
    ((0xA300000001#40).extractLsb' 37 3 = 5 ∧ (0xA300000001#40).extractLsb' 0 32 ≠ 0) ∧
    (0x9FFFFFFFFF#40).extractLsb' 37 3 = 4 := by decide

theorem witness_StepRunsThePresentedCommand :
    (State.reset.present 0x6000000000).inputs = [.command 0x6000000000] ∧ decode 0x6000000000 = .instr .start ∧
    (State.reset.present 0x6000000001).inputs = [.command 0x6000000001] ∧ decode 0x6000000001 = .illegal .strayStart := by
  decide

theorem witness_StepHoldsStateWithoutCommand : State.reset.inputs = [] ∧ (runAt 100).inputs = [] := by decide

theorem witness_StepTakesTheResetInput : ((runAt 7).assertReset).inputs = [.resetInput] := by decide

/-- An open session about to take a sample. -/
theorem witness_StepKeepsTheInvariant : ((runAt 7).present 0x2000000055).Inv ∧
    ∃ t, step ((runAt 7).present 0x2000000055) = .next t := by
  refine ⟨⟨by decide, by decide, by decide, by decide, by decide, ⟨false, by decide⟩, by simp [runAt, State.reset, State.present, State.setInputs]⟩, ?_⟩
  exact ⟨_, rfl⟩

theorem witness_StartOpensOrRefuses :
    (idleEnc 0).phase = .idle ∧ (idleEnc 0).enc = 0 ∧ (idleEnc 1).phase = .idle ∧ (idleEnc 1).enc = 1 ∧
    (idleEnc 2).phase = .idle ∧ (idleEnc 2).enc = 2 ∧ (idleEnc 3).phase = .idle ∧ (idleEnc 3).enc = 3 ∧
    (runAt 0).phase = .run := by decide

/-- The counts where the clauses meet. -/
theorem witness_SampleStoresOrCompletesTheFrame :
    State.reset.phase = .idle ∧
    ((runAt 0).phase = .run ∧ (runAt 0).cnt.val < 239) ∧ ((runAt 238).phase = .run ∧ (runAt 238).cnt.val < 239) ∧
    ((runAt 239).phase = .run ∧ (runAt 239).cnt.val = 239) := by decide

theorem witness_EosClosesTheSession : (runAt 239).phase = .run ∧ State.reset.phase = .idle := by decide

theorem witness_WrcsrWritesConfiguration :
    (runAt 0).phase = .run ∧ State.reset.phase = .idle ∧
    3 ≤ (0x03#5).toNat ∧ 3 ≤ (0x1F#5).toNat ∧ ¬ 3 ≤ (0x02#5).toNat := by decide

/-- The addresses where the ranges of the map meet. -/
theorem witness_RdcsrAnswersOneWord :
    (0x08#5).toNat = 8 + (0 : Fin 18).val ∧ (0x19#5).toNat = 8 + (17 : Fin 18).val ∧ 26 ≤ (0x1A#5).toNat ∧
    26 ≤ (0x1F#5).toNat ∧ ¬ 26 ≤ (0x07#5).toNat := by decide

theorem witness_RegisterMapIsOneToOne : Csr.ofAddr 0x08 = some (.power 0) ∧ Csr.ofAddr 0x19 = some (.power 17) ∧
    Csr.ofAddr 0x07 = none ∧ Csr.ofAddr 0x1A = none := by decide

/-- The four events, and flags that go from clear to set. -/
theorem witness_SequenceErrorsExactly :
    decode 0x2000000055 = .instr (.sample 0x55) ∧ decode 0x4000000000 = .instr .eos ∧ State.reset.phase = .idle ∧
    decode 0x6000000000 = .instr .start ∧ decode 0x8000000001 = .instr (.wrcsr 0 1) ∧ (runAt 0).phase = .run ∧
    State.reset.seqerr = false ∧ (nextOr State.reset (execWord 0x4000000000 State.reset)).seqerr = true ∧
    (runAt 0).seqerr = false ∧ (nextOr (runAt 0) (execWord 0x8000000001 (runAt 0))).seqerr = true := by decide

theorem witness_IllegalCommandErrorsExactly :
    decode 0xC000000000 = .instr (.reservedOp6 0) ∧ decode 0x0000000001 = .illegal .strayNop ∧
    decode 0x8300000000 = .instr (.wrcsr 3 0) ∧ decode 0xA700000000 = .instr (.rdcsr 7) ∧
    decode 0xBA00000000 = .instr (.rdcsr 26) ∧ State.reset.illcmd = false ∧
    (nextOr State.reset (execWord 0xA700000000 State.reset)).illcmd = true := by decide

theorem witness_ConfigurationErrorsExactly :
    decode 0x6000000000 = .instr .start ∧ (idleEnc 2).phase = .idle ∧ (idleEnc 2).enc = 2 ∧ (idleEnc 3).enc = 3 ∧
    (idleEnc 3).cfgerr = false ∧ (nextOr State.reset (execWord 0x6000000000 (idleEnc 3))).cfgerr = true := by decide

theorem witness_OnlyResetClearsErrorFlags :
    (decode 0x4000000000 ≠ .instr .reset ∧ ∃ t, execWord 0x4000000000 (runAt 3) = .next t) ∧
    (decode 0xE000000000 = .instr .reset ∧ ∃ t, execWord 0xE000000000 (runAt 3) = .next t) ∧
    (Instr.rdcsr 0x04 ≠ .rdcsr 0x03#5 ∧ ∃ t, exec (.rdcsr 0x04) State.reset = .next t) :=
  ⟨⟨by decide, ⟨_, rfl⟩⟩, ⟨by decide, ⟨_, rfl⟩⟩, ⟨by decide, ⟨_, rfl⟩⟩⟩

theorem witness_ConfigurationFrozenInSession :
    ((runAt 3).phase = .run ∧ ∃ t, execWord 0x8142C80000 (runAt 3) = .next t) ∧
    ((runAt 3).phase = .run ∧ ∃ t, execWord 0xE000000000 (runAt 3) = .next t) ∧
    (State.reset.phase = .idle ∧ ∃ t, execWord 0x6000000000 State.reset = .next t ∧ t.phase = .run) :=
  ⟨⟨rfl, ⟨_, rfl⟩⟩, ⟨rfl, ⟨_, rfl⟩⟩, ⟨rfl, ⟨_, rfl, rfl⟩⟩⟩

theorem witness_SequencingStateMovesOnlyByItsCommands :
    ∃ t, execWord 0x2000000055 (runAt 238) = .next t ∧ t.cnt ≠ (runAt 238).cnt := ⟨_, rfl, by decide⟩

/-- A completed frame, an opened session, a `RESET`, and a word that is none of them. -/
theorem witness_MfMovesOnlyByItsRule :
    (decode 0x2000000055 = .instr (.sample 0x55) ∧ (runAt 239).phase = .run ∧ (runAt 239).cnt.val = 239 ∧
      ∃ t, execWord 0x2000000055 (runAt 239) = .next t) ∧
    (∃ t, execWord 0x6000000000 { State.reset with mf := true } = .next t ∧ t.phase = .run) ∧
    (∃ t, execWord 0xE000000000 { runAt 7 with mf := true } = .next t) ∧
    (∃ t, execWord 0x4000000000 { runAt 7 with mf := true } = .next t) :=
  ⟨⟨by decide, rfl, rfl, ⟨_, rfl⟩⟩, ⟨_, rfl, rfl⟩, ⟨_, rfl⟩, ⟨_, rfl⟩⟩

/-- The verdicts behind the frame clause of `MfMovesOnlyByItsRule`: on-sets that set and clear the bit. -/
theorem witness_MfMovesOnlyByItsRule_frames :
    (decideOnSet (pairMask 9 15) false).2 = true ∧ (decideOnSet (pairMask 11 15) false).2 = true ∧
    (decideOnSet (pairMask 13 15) true).2 = false := by decide

theorem witness_OutWordsOnlyFromFramesAndEos :
    (Symbol.invalid, 31#5) ∈ [(Symbol.silence, 27#5), (.invalid, 31)] ∧
    ((runAt 239).phase = .run ∧ decode 0x2000000055 = .instr (.sample 0x55) ∧ (runAt 239).cnt.val = 239 ∧
      ∃ t, execWord 0x2000000055 (runAt 239) = .next t) ∧
    (decode 0x4000000000 = .instr .eos ∧ ∃ t, execWord 0x4000000000 (runAt 239) = .next t) ∧
    (State.reset.phase ≠ .run ∧ ∃ t, execWord 0x4000000000 State.reset = .next t) :=
  ⟨by decide, ⟨rfl, by decide, rfl, ⟨_, rfl⟩⟩, ⟨by decide, ⟨_, rfl⟩⟩, ⟨by decide, ⟨_, rfl⟩⟩⟩

theorem witness_ResponsesOnlyFromRdcsr :
    (decode 0xA300000000 = .instr (.rdcsr 3) ∧ ∃ t, execWord 0xA300000000 (runAt 3) = .next t) ∧
    (decode 0x6000000000 = .instr .start ∧ ∃ t, execWord 0x6000000000 State.reset = .next t) :=
  ⟨⟨by decide, ⟨_, rfl⟩⟩, ⟨by decide, ⟨_, rfl⟩⟩⟩

theorem witness_OnlySampleWritesTheBuffer :
    (runAt 239).fb.wf ∧ (∃ t, execWord 0x2000000055 (runAt 239) = .next t) ∧ decode 0x2000000055 = .instr (.sample 0x55) ∧
    (∃ t, execWord 0x0000000000 (runAt 239) = .next t) ∧ decode 0x0000000000 = .instr .nop :=
  ⟨by decide, ⟨_, rfl⟩, by decide, ⟨_, rfl⟩, by decide⟩

/-- No sample, and the longest partial frame. -/
theorem witness_SamplesFillTheFrameInOrder :
    (runAt 0).phase = .run ∧ (runAt 0).cnt = 0 ∧ (runAt 0).fb.wf ∧ ([] : List Byte).length < 240 ∧
    (List.replicate 239 0x55#8).length < 240 := by decide +kernel

theorem witness_FrameOfSamplesIsClassified :
    (runAt 0).phase = .run ∧ (runAt 0).cnt = 0 ∧ (runAt 0).fb.wf ∧ (List.replicate 240 0x55#8).length = 240 := by
  decide +kernel

/-- Both supported encodings, also for `SessionsAreIndependent`. -/
theorem witness_SessionTruncatesToWholeFrames :
    (idleEnc 0).phase = .idle ∧ encSupported (idleEnc 0).enc = true ∧ (idleEnc 1).phase = .idle ∧
    encSupported (idleEnc 1).enc = true := by decide

/-- A state a whole session has left behind. -/
theorem witness_SessionsAreIndependent :
    let s : State := { idleEnc 1 with mf := true, frames := 3, eosf := true, symv := true, fb := [(5, 0x40)], out := [0x20] }
    s.phase = .idle ∧ encSupported s.enc = true ∧ s.fb.wf := by decide

/-- Buffers that agree below `CNT` = 2 and differ at and above it. -/
theorem witness_UnfilledBufferIsUnobservable :
    let s : State := { runAt 2 with fb := [(1, 0x40)] }
    let t : State := { runAt 2 with fb := [(1, 0x40), (2, 0x41), (239, 0xFF)] }
    s.fb.wf ∧ t.fb.wf ∧ s.SameButUnfilled t ∧ ∃ s', runWords [0x2000000055, 0xA300000000] s = .next s' := by
  refine ⟨by decide, by decide, ⟨by decide, ?_⟩, ⟨_, rfl⟩⟩
  decide

theorem witness_RoundingIsToNearestEven : 0 < 1 ∧ 0 < 2 ^ 149 := by decide

/-- A subnormal, a normal and the greatest finite value; and `1 + 1`, `1 - 1` and `0.5 · 2^-149` with their exact
magnitudes. -/
theorem witness_OperationsStayInTheFormat :
    |(B32.fin false (2 ^ 149)).toRat + (B32.fin false (2 ^ 149)).toRat| = ((2 ^ 150 : Nat) : Rat) / ((1 : Nat) * 2 ^ 149) ∧
    |(B32.fin false (2 ^ 149)).toRat - (B32.fin false (2 ^ 149)).toRat| = ((0 : Nat) : Rat) / ((1 : Nat) * 2 ^ 149) ∧
    |(B32.fin false (2 ^ 148)).toRat * (B32.fin true 1).toRat| = ((1 : Nat) : Rat) / ((2 : Nat) * 2 ^ 149) ∧
    (B32.fin true 1).representable = true ∧ (B32.fin false (2 ^ 149)).representable = true ∧
    (B32.fin false ((2 ^ 24 - 1) * 2 ^ 253)).representable = true ∧ (B32.fin false (2 ^ 24 + 1)).representable = false := by
  decide +kernel

theorem witness_BitsAndFromBitsAreInverse :
    B32.ofBits 0x7F800000 ≠ .nan ∧ B32.ofBits 0x80000000 ≠ .nan ∧ B32.ofBits 0x7F800001 = .nan ∧
    (B32.fin true 1).representable = true := by decide +kernel

theorem witness_ComparisonsFollowTheOrder : (B32.fin true (2 ^ 24 - 1)).representable = true := by decide +kernel

/-- The recurrence over one byte. -/
theorem witness_PowerFollowsTheRecurrence :
    let c := B32.ofBits 0x3FE0FA29
    let u : Nat → B32 := fun n =>
      if n = 2 then B32.sub (B32.add (norm fmt 0 0x40) (B32.mul c (.fin false 0))) (.fin false 0) else .fin false 0
    u 0 = .fin false 0 ∧ u 1 = .fin false 0 ∧
    ∀ n (h : n < [0x40#8].length), u (n + 2) = B32.sub (B32.add (norm fmt 0 [0x40#8][n]) (B32.mul c (u (n + 1)))) (u n) := by
  refine ⟨rfl, rfl, ?_⟩
  intro n h
  obtain rfl : n = 0 := by simpa using h
  simp

theorem witness_MaximumIsAGreatestPower : ∀ j : Fin 18, (powers 0x447A0000 0x42480000 [4, 10])[j] ≠ .nan := by
  decide +kernel

/-- Below the default threshold by one unit in the last place, and at it. -/
theorem witness_QuietFramesAreSilence :
    B32.lt (maxPower fmt (powers 0x42C7FFFF 0 [4, 10])) (B32.ofBits 0x42C80000) = true ∧
    (∀ j : Fin 18, B32.lt (powers 0x42C7FFFF 0 [4, 10])[j] (B32.ofBits 0x42C80000) = true) ∧
    B32.ofBits 0x42C80000 = maxPower fmt (powers 0x42C80000 0 [4, 10]) := by decide +kernel

/-- At the default threshold. -/
theorem witness_ClassifyMarksBinsAboveCutoff :
    B32.lt (maxPower fmt (powers 0x42C80000 0 [4, 10])) (B32.ofBits 0x42C80000) = false := by decide +kernel

/-- The greatest range below 1 with the least power above 2^-126, and a floor of 0. -/
theorem witness_LoudestBinIsOn :
    let p := powers 0x00800001 0 [4]
    maxPower fmt p = .fin false (2 ^ 23 + 1) ∧ p[(4 : Fin 18)] = maxPower fmt p ∧
    B32.lt (maxPower fmt p) (.fin false 0) = false ∧
    (B32.fin false ((2 ^ 24 - 1) * 2 ^ 125)).representable = true ∧ (2 ^ 24 - 1) * 2 ^ 125 < 2 ^ 149 ∧
    (B32.fin false (2 ^ 23 + 1)).representable = true ∧ 2 ^ 23 < 2 ^ 23 + 1 := by decide +kernel

/-- `RANGE` a NaN, infinite, and exactly 1. -/
theorem witness_LargeOrNanRangeIsSilence :
    (∀ j : Fin 18, (powers 0x447A0000 0 [4, 10])[j] = .fin false (if j = 4 ∨ j = 10 then 1000 * 2 ^ 149 else 0)) ∧
    (B32.fin false (1000 * 2 ^ 149)).representable = true ∧ (B32.fin false 0).representable = true ∧
    B32.ofBits 0x7FC00000 = .nan ∧ B32.ofBits 0x7F800000 = .inf false ∧
    B32.ofBits 0x3F800000 = .fin false (2 ^ 149) := by decide +kernel

theorem witness_SingleBinDecision : onCount 0x00001 = 1 ∧ onCount 0x10000 = 1 ∧ onCount 0x20000 = 1 := by decide

theorem witness_PairDecisionTable :
    onCount (pairMask 9 15) = 2 ∧ onCount (pairMask 11 15) = 2 ∧ onCount (pairMask 13 15) = 2 ∧
    onCount (pairMask 0 17) = 2 := by decide

theorem witness_OtherCountsDecision : onCount 0 = 0 ∧ 2 < onCount 0x00007 ∧ 2 < onCount 0x3FFFF := by decide

theorem witness_MfFollowsKpAndSt : (verdict (powers 0x447A0000 0 [9, 15]) 0x42C80000 0x3DCCCCCD).on ≠ pairMask 4 13 ∧
    (verdict (powers 0x447A0000 0 [9, 15]) 0x42C80000 0x3DCCCCCD).sym = .kp1 := by decide +kernel

theorem witness_SilenceRunFlushesOnce : 0 < 1 ∧ Symbol.d5 ≠ .silence ∧ Symbol.d5 ≠ .invalid := by decide

theorem witness_HeldToneEmittedOnce :
    (0 : Int) < 1 ∧ Symbol.d5 ≠ .silence ∧ Symbol.d5 ≠ .invalid ∧ ∀ y ∈ [Symbol.d5, .invalid], y = .d5 ∨ y = .invalid := by decide

/-- "14" with gaps shorter than the flush threshold 100. -/
theorem witness_GappedTonesRoundTrip : 0 < 100 ∧ ∀ d ∈ [(Symbol.d1, 3, 1), (.d4, 1, 99)],
    d.1 ≠ .silence ∧ d.1 ≠ .invalid ∧ 1 ≤ d.2.1 ∧ 1 ≤ d.2.2 ∧ d.2.2 < 100 := by decide

theorem witness_FlushThresholdIsChecked : (0 : Int) ≤ 0 ∧ (0 : Int) < 1 := by decide

/-- The commands and states where the clauses of the format's machine meet. -/
theorem witness_FormatIsAnArgument :
    ((runAt 239).phase = .run ∧ (runAt 239).cnt.val = 239) ∧
    (Instr.sample 0x55 ≠ .reset ∧ ¬ ((runAt 238).phase = .run ∧ (runAt 238).cnt.val = 239)) ∧
    (∀ b, Instr.nop ≠ .sample b) := ⟨by decide, by decide, by simp⟩

end Sys2Proof.Tests
end

namespace Sys2Proof.Machine

/-! The `STATUS` view bit by bit (R24) and the one rule by which `MF` moves (R15). -/

section StatusView
variable (s : State)

/-! The fields of `STATUS`, the layout of R24. -/

@[simp] theorem State.statusWord_run : s.statusWord[0] = s.phase.bit := by
  simp [State.statusWord, BitVec.append_ofBool, BitVec.getElem_concat]
@[simp] theorem State.statusWord_eosf : s.statusWord[1] = s.eosf := by
  simp [State.statusWord, BitVec.append_ofBool, BitVec.getElem_concat]
@[simp] theorem State.statusWord_mf : s.statusWord[2] = s.mf := by
  simp [State.statusWord, BitVec.append_ofBool, BitVec.getElem_concat]
@[simp] theorem State.statusWord_cfgerr : s.statusWord[3] = s.cfgerr := by
  simp [State.statusWord, BitVec.append_ofBool, BitVec.getElem_concat]
@[simp] theorem State.statusWord_seqerr : s.statusWord[4] = s.seqerr := by
  simp [State.statusWord, BitVec.append_ofBool, BitVec.getElem_concat]
@[simp] theorem State.statusWord_illcmd : s.statusWord[5] = s.illcmd := by
  simp [State.statusWord, BitVec.append_ofBool, BitVec.getElem_concat]
@[simp] theorem State.statusWord_symv : s.statusWord[6] = s.symv := by
  simp [State.statusWord, BitVec.append_ofBool, BitVec.getElem_concat]
@[simp] theorem State.statusWord_bit7 : s.statusWord[7] = false := by
  change s.statusWord.getLsbD 7 = false
  simp only [State.statusWord, BitVec.getLsbD_append]
  simp

@[simp] theorem State.statusWord_cnt : s.statusWord.extractLsb' 8 8 = BitVec.ofNat 8 s.cnt.val := by
  ext i hi
  simp only [State.statusWord, BitVec.getElem_extractLsb', BitVec.getLsbD_append]
  grind

@[simp] theorem State.statusWord_high : s.statusWord.extractLsb' 16 16 = 0#16 := by
  ext i hi
  simp only [State.statusWord, BitVec.getElem_extractLsb', BitVec.getLsbD_append]
  grind

end StatusView

@[simp] theorem Phase.bit_eq_true_iff {p : Phase} : p.bit = true ↔ p = .run := by cases p <;> simp [Phase.bit]

/-- A write to `STATUS` raises one error flag and does nothing else: it is read only (R24, R104). -/
theorem exec_wrcsr_status (v : Word) (s : State) :
    exec (.wrcsr 0x03#5 v) s = .next (s.raise .illcmd) ∨ exec (.wrcsr 0x03#5 v) s = .next (s.raise .seqerr) := by
  rcases hp : s.phase with _ | _
  · exact .inl (by simp [exec, execWrcsr_idle _ _ hp, Csr.ofAddr])
  · exact .inr (by simp [exec, execWrcsr_run _ _ hp])

/-- Settles O20, by the fields of the word and the two refusals of a write. -/
theorem statusViewBits : Obligations.StatusViewBits := by
  unfold Obligations.StatusViewBits
  refine ⟨rfl, by decide, fun s => ?_⟩
  have hcnt : s.cnt.val < 256 := by omega
  simpa [State.readCsr, hcnt, State.raise] using fun v => exec_wrcsr_status v s

/-! ### `MF` -/

section MfAfter
variable {x : Symbol} (mf : Bool)

theorem mfAfter_kp (h : x = .kp1 ∨ x = .kp2) : mfAfter x mf = true := by simp [mfAfter, h]

@[simp] theorem mfAfter_st : mfAfter .st mf = false := by simp [mfAfter]

/-- Every other symbol keeps the bit (R97). -/
theorem mfAfter_other (h : ¬ (x = .kp1 ∨ x = .kp2 ∨ x = .st)) : mfAfter x mf = mf := by
  simp_all [mfAfter]

end MfAfter

/-- A call-progress symbol is none that moves `MF` (R90). -/
theorem mfAfter_callProgress {on : BitVec 18} {x : Symbol} (mf : Bool) (h : callProgress on = some x) :
    mfAfter x mf = mf := by
  unfold callProgress at h
  split_ifs at h <;> cases h <;> rfl

theorem mfAfter_supervisoryPair {on : BitVec 18} {x : Symbol} (mf : Bool) (h : supervisoryPair on = some x) :
    mfAfter x mf = mf := by
  unfold supervisoryPair at h
  split_ifs at h
  cases h
  rfl

/-- No cell of the DTMF grid holds a symbol that moves `MF` (R93). -/
theorem mfAfter_dtmfGrid (r c : Fin 4) (mf : Bool) : mfAfter (dtmfGrid r c) mf = mf := by
  revert r c mf; decide

theorem mfAfter_dtmfTest {on : BitVec 18} {x : Symbol} {mf : Bool} (h : dtmfTest on mf = some x) :
    mfAfter x mf = mf := by
  unfold dtmfTest at h
  split at h
  · split_ifs at h
    cases h
    exact mfAfter_dtmfGrid ..
  · cases h

theorem mfAfter_decideSingle (on : BitVec 18) (mf : Bool) : mfAfter (decideSingle on) mf = mf := by
  unfold decideSingle
  split_ifs <;> rfl

/-- The test that answers first decides both results, and only the MF test has a symbol that moves `MF` (R89). -/
theorem decidePair_snd (on : BitVec 18) (mf : Bool) : (decidePair on mf).2 = mfAfter (decidePair on mf).1 mf := by
  unfold decidePair
  split
  · next h => exact (mfAfter_callProgress mf h).symm
  · split
    · next h => exact (mfAfter_supervisoryPair mf h).symm
    · split
      · next h => exact (mfAfter_dtmfTest h).symm
      · split <;> rfl

/-- R97 for the whole decision: the new `MF` is a function of the symbol and the old one. -/
theorem decideOnSet_snd (on : BitVec 18) (mf : Bool) : (decideOnSet on mf).2 = mfAfter (decideOnSet on mf).1 mf := by
  unfold decideOnSet
  split_ifs
  · rfl
  · exact (mfAfter_decideSingle on mf).symm
  · exact decidePair_snd on mf
  · rfl

theorem classify_mf {F : Type} (A : Format F) (p : Vector F 18) (thresh range : F) (mf : Bool) :
    (classify A p thresh range mf).mf = mfAfter (classify A p thresh range mf).sym mf := by
  rcases h : A.lt (maxPower A p) thresh with _ | _
  · rw [classify_decide h]; exact decideOnSet_snd ..
  · rw [classify_floor h]; rfl

theorem verdictOn_mf {F : Type} (A : Format F) (s : State) (p : Vector F 18) :
    (s.verdictOn A p).mf = mfAfter (s.verdictOn A p).sym s.mf := by
  unfold State.verdictOn
  exact classify_mf ..

/-- The sample that completes a frame moves `MF` by the frame's symbol. -/
theorem acceptSample_mf_last {F : Type} (A : Format F) {s : State} (b : Byte) (h : s.cnt.val = 239) :
    (s.acceptSample A b).mf = mfAfter (s.acceptSample A b).sym s.mf := by
  rw [acceptSample_last A b (Fin.ext h), frameDone_eq]
  exact verdictOn_mf ..

theorem acceptSample_mf_next {F : Type} (A : Format F) {s : State} (b : Byte) (h : s.cnt.val ≠ 239) :
    (s.acceptSample A b).mf = s.mf := by
  simp [acceptSample_next A b (by omega : s.cnt.val < 239)]

/-- What a word does: its command's effect, or `ILLCMD` alone (R43). -/
theorem execWord_cases {w : CmdWord} {s t : State} (h : execWord w s = .next t) :
    (∃ i, decode w = .instr i ∧ exec i s = .next t) ∨ (∃ r, decode w = .illegal r) ∧ t = s.raise .illcmd := by
  unfold execWord execDecoded at h
  rcases hd : decode w with i | r
  · exact .inl ⟨i, rfl, by simpa [hd, execDecodedBy] using h⟩
  · exact .inr ⟨⟨r, rfl⟩, by simpa [hd, execDecodedBy, State.rejectWord, eq_comm] using h⟩

/-- An accepted `START` clears `MF`, a refused one opens no session and keeps it (R55). -/
theorem exec_start_mf {s t : State} (h : exec .start s = .next t) :
    t.mf = if s.phase = .idle ∧ t.phase = .run then false else s.mf := by
  rcases hp : s.phase with _ | _
  · simp only [exec, execStart_idle hp] at h
    cases h
    split_ifs <;> simp_all
  · simp only [exec, execStart_run hp] at h
    cases h
    simp

/-- A `SAMPLE` moves `MF` exactly when it completes a frame (R56, R57). -/
theorem exec_sample_mf {b : Byte} {s t : State} (h : exec (.sample b) s = .next t) :
    t.mf = if s.phase = .run ∧ s.cnt.val = 239 then mfAfter t.sym s.mf else s.mf := by
  rcases hp : s.phase with _ | _
  · simp only [exec, execSample_idle b hp] at h
    cases h
    simp
  · simp only [exec, execSample_run b hp] at h
    cases h
    split_ifs with hc
    · exact acceptSample_mf_last fmt b hc.2
    · exact acceptSample_mf_next fmt b (by simpa using hc)

theorem exec_reset_mf {s t : State} (h : exec .reset s = .next t) : t.mf = false := by
  cases h
  rfl

/-- No other command moves `MF`, `EOS` among them (R15). -/
theorem exec_mf_other {i : Instr} {s t : State} (h : exec i s = .next t) (hreset : i ≠ .reset) (hstart : i ≠ .start)
    (hsample : ∀ b, i ≠ .sample b) : t.mf = s.mf := by
  cases i with
  | reset => exact absurd rfl hreset
  | start => exact absurd rfl hstart
  | sample b => exact absurd rfl (hsample b)
  | nop => cases h; rfl
  | reservedOp6 x => cases h; rfl
  | eos =>
    rcases hp : s.phase with _ | _
    · simp only [exec, execEos_idle hp] at h; cases h; simp
    · simp only [exec, execEos_run hp] at h; cases h; simp
  | wrcsr a v =>
    rcases hp : s.phase with _ | _
    · simp only [exec, execWrcsr_idle a v hp] at h; cases h; split_ifs <;> simp
    · simp only [exec, execWrcsr_run a v hp] at h; cases h; simp
  | rdcsr a =>
    rcases hc : Csr.ofAddr a with _ | c
    · simp only [exec, execRdcsr_none hc] at h; cases h; simp
    · simp only [exec, execRdcsr_some hc] at h; cases h; simp

/-- Settles O28: a word is a `RESET`, a `START`, a `SAMPLE` or one that leaves `MF`, and a completed frame leaves
`mfAfter` of its symbol. -/
theorem mfMovesOnlyByItsRule : Obligations.MfMovesOnlyByItsRule := by
  unfold Obligations.MfMovesOnlyByItsRule
  refine ⟨rfl, fun w s t h => ?_⟩
  rcases execWord_cases h with ⟨i, hd, hi⟩ | ⟨⟨r, hd⟩, rfl⟩
  · cases i with
    | reset => simp [hd, exec_reset_mf hi]
    | start =>
      have hmf := exec_start_mf hi
      by_cases hopen : s.phase = .idle ∧ t.phase = .run <;> simp [hd, hmf, hopen]
    | sample b =>
      have hmf := exec_sample_mf hi
      by_cases hframe : s.phase = .run ∧ s.cnt.val = 239
      · rw [if_pos hframe] at hmf
        refine ⟨by simp, fun _ hkp => ?_, fun _ hst => ?_, by simp [hd], fun hother _ _ => ?_⟩
        · rw [hmf, mfAfter_kp _ hkp]
        · rw [hmf, hst, mfAfter_st]
        · rw [hmf, mfAfter_other _ fun hx => hother ⟨⟨⟨b, hd⟩, hframe⟩, hx⟩]
      · rw [if_neg hframe] at hmf
        exact ⟨by simp, fun hf => absurd hf.2 hframe, fun hf => absurd hf.2 hframe, by simp [hd], fun _ _ _ => hmf⟩
    | nop | eos | wrcsr a v | rdcsr a | reservedOp6 x =>
      simp [hd, exec_mf_other hi]
  · simp [hd]

end Sys2Proof.Machine

namespace Sys2Proof.Machine

/-! Which words are illegal (R43), which words append to `OUT` and what they leave in `FRAMES` (R44, R47), and which
append to `RSP` (R45). -/

/-! ### Illegal words -/

/-- The list of R43 on the three fields: the opcode 6, or a bit set in a field the opcode requires to be 0. -/
def IllegalFields (op : BitVec 3) (a : CsrAddr) (d : Word) : Prop :=
  op = 6#3 ∨ ((op = 0#3 ∨ op = 2#3 ∨ op = 3#3 ∨ op = 7#3) ∧ (a ≠ 0 ∨ d ≠ 0)) ∨
    (op = 1#3 ∧ (a ≠ 0 ∨ sampleHigh d ≠ 0)) ∨ (op = 5#3 ∧ d ≠ 0)

/-- What a word decodes to is one of the seven commands of R42. -/
def DecodesToCommand (x : Decoded) : Prop := ∃ i, i.isCommand = true ∧ x = .instr i

@[simp] theorem decodesToCommand_instr (i : Instr) : DecodesToCommand (.instr i) ↔ i.isCommand = true := by
  simp [DecodesToCommand]

@[simp] theorem decodesToCommand_illegal (r : IllegalWord) : ¬ DecodesToCommand (.illegal r) := by
  simp [DecodesToCommand]

/-- An arm of the decoder with required-zero fields answers a command exactly when they are 0. -/
@[simp] theorem decodesToCommand_ite (p : Prop) [Decidable p] (i : Instr) (r : IllegalWord) :
    DecodesToCommand (if p then .instr i else .illegal r) ↔ p ∧ i.isCommand = true := by
  split_ifs with hp <;> simp [hp]

theorem opcode_cases (op : BitVec 3) : op = 0#3 ∨ op = 1#3 ∨ op = 2#3 ∨ op = 3#3 ∨ op = 4#3 ∨ op = 5#3 ∨ op = 6#3 ∨
    op = 7#3 := by
  revert op; decide

/-- The decoder and R43 agree, opcode by opcode: its required-zero fields, none for `WRCSR`, and no command for 6. -/
theorem decodesToCommand_decodeFields (op : BitVec 3) (a : CsrAddr) (d : Word) :
    DecodesToCommand (decodeFields op a d) ↔ ¬ IllegalFields op a d := by
  rcases opcode_cases op with rfl | rfl | rfl | rfl | rfl | rfl | rfl | rfl <;>
    simp [decodeFields, IllegalFields, Instr.isCommand]

/-- What decodes to no command raises `ILLCMD` and does nothing else, the reserved opcode like the stray bits (R121). -/
theorem execDecoded_of_not_command {x : Decoded} (s : State) (h : ¬ DecodesToCommand x) :
    execDecoded x s = .next (s.raise .illcmd) := by
  cases x with
  | illegal r => rfl
  | instr i =>
    cases i with
    | reservedOp6 y => rfl
    | nop | sample | eos | start | wrcsr | rdcsr | reset => simp [Instr.isCommand] at h

/-- Settles O5: the list of R43 is exactly the words that decode to no command. -/
theorem illegalWordsAreDropped : Obligations.IllegalWordsAreDropped := by
  unfold Obligations.IllegalWordsAreDropped
  intro w s
  have hdec : DecodesToCommand (decode w) ↔ ¬ IllegalFields (fieldOp w) (fieldA w) (fieldD w) :=
    decodesToCommand_decodeFields ..
  exact ⟨fun hill => execDecoded_of_not_command s fun hc => hdec.mp hc hill, hdec.mpr⟩

/-! ### What a command leaves on the streams -/

section Streams
variable {a : CsrAddr} {v : Word} {b : Byte} {s t : State}

theorem exec_wrcsr_streams (h : exec (.wrcsr a v) s = .next t) :
    t.out = s.out ∧ t.frames = s.frames ∧ t.rsp = s.rsp := by
  rcases hp : s.phase with _ | _
  · simp only [exec, execWrcsr_idle a v hp] at h
    cases h
    split_ifs <;> simp
  · simp only [exec, execWrcsr_run a v hp] at h
    cases h
    simp

/-- The one word a `RDCSR` answers is 0 where the address is no register (R45, R105). -/
theorem exec_rdcsr_streams (h : exec (.rdcsr a) s = .next t) :
    t.out = s.out ∧ t.frames = s.frames ∧ t.rsp = s.rsp ++ [(Csr.ofAddr a).elim 0#32 s.readCsr] := by
  rcases hc : Csr.ofAddr a with _ | c
  · simp only [exec, execRdcsr_none hc] at h
    cases h
    simp
  · simp only [exec, execRdcsr_some hc] at h
    cases h
    simp

/-- An accepted `START` clears `FRAMES`, a refused one keeps it (R55). -/
theorem exec_start_streams (h : exec .start s = .next t) :
    t.out = s.out ∧ (t.frames = s.frames ∨ t.frames = 0#32) ∧ t.rsp = s.rsp := by
  rcases hp : s.phase with _ | _
  · simp only [exec, execStart_idle hp] at h
    cases h
    split_ifs <;> simp
  · simp only [exec, execStart_run hp] at h
    cases h
    simp

/-- An `EOS` appends the END word exactly when it closes a session (R44, R58). -/
theorem exec_eos_streams (h : exec .eos s = .next t) :
    t.out = (if s.phase = .run then s.out ++ [endWord] else s.out) ∧ t.frames = s.frames ∧ t.rsp = s.rsp := by
  rcases hp : s.phase with _ | _
  · simp only [exec, execEos_idle hp] at h
    cases h
    simp
  · simp only [exec, execEos_run hp] at h
    cases h
    simp

/-- The sample that completes a frame appends the word of its symbol and counts the frame (R44, R57). -/
theorem acceptSample_last_streams {F : Type} (A : Format F) (b : Byte) (h : s.cnt.val = 239) :
    (s.acceptSample A b).out = s.out ++ [symbolWord (s.acceptSample A b).sym] ∧
      (s.acceptSample A b).frames = s.frames + 1 ∧ (s.acceptSample A b).rsp = s.rsp := by
  rw [acceptSample_last A b (Fin.ext h), frameDone_eq]
  exact ⟨rfl, rfl, rfl⟩

theorem acceptSample_next_streams {F : Type} (A : Format F) (b : Byte) (h : s.cnt.val ≠ 239) :
    (s.acceptSample A b).out = s.out ∧ (s.acceptSample A b).frames = s.frames ∧
      (s.acceptSample A b).rsp = s.rsp := by
  simp [acceptSample_next A b (by omega : s.cnt.val < 239)]

theorem exec_sample_frame_streams (h : exec (.sample b) s = .next t) (hp : s.phase = .run) (hc : s.cnt.val = 239) :
    t.out = s.out ++ [symbolWord t.sym] ∧ t.frames = s.frames + 1 ∧ t.rsp = s.rsp := by
  simp only [exec, execSample_run b hp] at h
  cases h
  exact acceptSample_last_streams fmt b hc

/-- A `SAMPLE` that completes no frame, refused or stored, touches no stream (R56). -/
theorem exec_sample_other_streams (h : exec (.sample b) s = .next t) (hf : ¬ (s.phase = .run ∧ s.cnt.val = 239)) :
    t.out = s.out ∧ t.frames = s.frames ∧ t.rsp = s.rsp := by
  rcases hp : s.phase with _ | _
  · simp only [exec, execSample_idle b hp] at h
    cases h
    simp
  · simp only [exec, execSample_run b hp] at h
    cases h
    exact acceptSample_next_streams fmt b fun hc => hf ⟨hp, hc⟩

end Streams

/-! ### The words of `OUT` -/

/-- The codes 28, 29 and 30 are no symbol's (R47). -/
theorem Symbol.code_ne_unused (x : Symbol) : x.code ≠ 28#5 ∧ x.code ≠ 29#5 ∧ x.code ≠ 30#5 := by
  cases x <;> decide

/-- The commands that append to `OUT` (R44): the sample that completes a frame, and an accepted `EOS`. -/
def AppendsToOut (i : Instr) (s : State) : Prop :=
  s.phase = .run ∧ ((∃ b, i = .sample b) ∧ s.cnt.val = 239 ∨ i = .eos)

/-- Every other command leaves `OUT`, and of these only `START` and `RESET` touch `FRAMES`, to clear it (R19). -/
theorem exec_out_other {i : Instr} {s t : State} (h : exec i s = .next t) (hi : ¬ AppendsToOut i s) :
    t.out = s.out ∧ (t.frames = s.frames ∨ t.frames = 0#32 ∧ (i = .start ∨ i = .reset)) := by
  cases i with
  | nop | reservedOp6 x => cases h; exact ⟨rfl, .inl rfl⟩
  | reset => cases h; exact ⟨rfl, .inr ⟨rfl, .inr rfl⟩⟩
  | start =>
    obtain ⟨hout, hframes, -⟩ := exec_start_streams h
    exact ⟨hout, hframes.imp_right fun hz => ⟨hz, .inl rfl⟩⟩
  | sample b =>
    obtain ⟨hout, hframes, -⟩ := exec_sample_other_streams h fun hf => hi ⟨hf.1, .inl ⟨⟨b, rfl⟩, hf.2⟩⟩
    exact ⟨hout, .inl hframes⟩
  | eos =>
    obtain ⟨hout, hframes, -⟩ := exec_eos_streams h
    rw [if_neg fun hp => hi ⟨hp, .inr rfl⟩] at hout
    exact ⟨hout, .inl hframes⟩
  | wrcsr a v =>
    obtain ⟨hout, hframes, -⟩ := exec_wrcsr_streams h
    exact ⟨hout, .inl hframes⟩
  | rdcsr a =>
    obtain ⟨hout, hframes, -⟩ := exec_rdcsr_streams h
    exact ⟨hout, .inl hframes⟩

/-- Settles O29: the table of codes row by row, then a word is a completed frame, an accepted `EOS` or one that
leaves `OUT`. -/
theorem outWordsOnlyFromFramesAndEos : Obligations.OutWordsOnlyFromFramesAndEos := by
  unfold Obligations.OutWordsOnlyFromFramesAndEos
  refine ⟨by decide, fun x => by cases x <;> simp, Symbol.code_ne_unused, fun w s t h => ?_⟩
  rcases execWord_cases h with ⟨i, hd, hi⟩ | ⟨⟨r, hd⟩, rfl⟩
  · simp only [hd, Decoded.instr.injEq]
    refine ⟨?_, ?_, exec_out_other hi⟩
    · rintro hp ⟨b, rfl⟩ hc
      obtain ⟨hout, hframes, -⟩ := exec_sample_frame_streams hi hp hc
      exact ⟨hout, hframes⟩
    · rintro hp rfl
      obtain ⟨hout, hframes, -⟩ := exec_eos_streams hi
      exact ⟨by rwa [if_pos hp] at hout, hframes⟩
  · simp [hd]

/-! ### The words of `RSP` -/

/-- No command but `RDCSR` appends to `RSP` (R45). -/
theorem exec_rsp_other {i : Instr} {s t : State} (h : exec i s = .next t) (hi : ∀ a, i ≠ .rdcsr a) :
    t.rsp = s.rsp := by
  cases i with
  | nop | reset | reservedOp6 x => cases h; rfl
  | start => exact (exec_start_streams h).2.2
  | eos => exact (exec_eos_streams h).2.2
  | wrcsr a v => exact (exec_wrcsr_streams h).2.2
  | rdcsr a => exact absurd rfl (hi a)
  | sample b =>
    by_cases hf : s.phase = .run ∧ s.cnt.val = 239
    · exact (exec_sample_frame_streams h hf.1 hf.2).2.2
    · exact (exec_sample_other_streams h hf).2.2

/-- Settles O30: a `RDCSR` answers at a register and at a reserved address, and no other word answers. -/
theorem responsesOnlyFromRdcsr : Obligations.ResponsesOnlyFromRdcsr := by
  unfold Obligations.ResponsesOnlyFromRdcsr
  intro w s t h
  rcases execWord_cases h with ⟨i, hd, hi⟩ | ⟨⟨r, hd⟩, rfl⟩
  · simp only [hd, Decoded.instr.injEq, ne_eq]
    refine ⟨?_, exec_rsp_other hi⟩
    rintro a rfl
    obtain ⟨-, -, hrsp⟩ := exec_rdcsr_streams hi
    rw [hrsp]
    cases Csr.ofAddr a <;> rfl
  · simp [hd]

end Sys2Proof.Machine

namespace Sys2Proof

/-! The five commands of the segmenter, each with its word (R42) and its whole next state (R53 to R58). -/

/-- A packed word as a number: each field at the weight of its lowest bit (R40). -/
theorem toNat_packFields (op : BitVec 3) (a : CsrAddr) (d : Word) :
    (packFields op a d).toNat = op.toNat * 2 ^ 37 + a.toNat * 2 ^ 32 + d.toNat := by
  have hd : d.toNat < 2 ^ 32 := d.isLt
  rw [packFields, BitVec.toNat_append, ← Nat.shiftLeft_add_eq_or_of_lt hd, BitVec.toNat_append,
    ← Nat.shiftLeft_add_eq_or_of_lt a.isLt, Nat.shiftLeft_eq, Nat.shiftLeft_eq]
  omega

end Sys2Proof

namespace Sys2Proof.Machine

theorem encSupported_iff {enc : BitVec 2} : encSupported enc = true ↔ enc = 0#2 ∨ enc = 1#2 := by
  simp [encSupported]

theorem cntSucc_eq {c : Fin 240} (h : c.val < 239) : cntSucc c = ⟨c.val + 1, by omega⟩ := Fin.ext (cntSucc_val h)

theorem framePowers_eq {F : Type} (A : Format F) (s : State) : s.framePowers A = estimate A s.fb.frame s.enc := by
  unfold State.framePowers; rfl

theorem verdictOn_eq {F : Type} (A : Format F) (s : State) (p : Vector F 18) :
    s.verdictOn A p = classify A p (A.ofBits s.thresh) (A.ofBits s.range) s.mf := by
  unfold State.verdictOn; rfl

/-- The sample that completes a frame: `FRAME_DONE` over the buffer that already holds it, under the configuration and
the `MF` bit from before the sample (R56, R57). -/
theorem acceptSample_last_eq {F : Type} (A : Format F) {s : State} (b : Byte) (h : s.cnt.val = 239) :
    let t : State := { s with fb := s.fb.write 239 b, cnt := 0 }
    let p := estimate A t.fb.frame s.enc
    s.acceptSample A b =
      t.finishFrame (s.powerBits A p) (classify A p (A.ofBits s.thresh) (A.ofBits s.range) s.mf) := by
  intro t p
  have hstored : (s.fbWrite s.cnt b).setCnt 0 = t := by simp only [State.fbWrite, State.setCnt, h, t]
  have hpowers : t.framePowers A = p := framePowers_eq A t
  have hbits : t.powerBits A p = s.powerBits A p := powerBits_congr A p rfl
  have hverdict : t.verdictOn A p = classify A p (A.ofBits s.thresh) (A.ofBits s.range) s.mf := verdictOn_eq A t p
  rw [acceptSample_last A b (Fin.ext h), hstored, State.frameDone, hpowers, hbits, hverdict]

/-- Settles O15, by the phase and, in `RUN`, by whether the sample is the frame's last. -/
theorem sampleStoresOrCompletesTheFrame : Obligations.SampleStoresOrCompletesTheFrame := by
  unfold Obligations.SampleStoresOrCompletesTheFrame
  intro s b
  refine ⟨?_, fun hp => execSample_idle b hp, fun hc hp => ?_, fun hp hc => ?_⟩
  · have hdata : (0#24 ++ b : Word).toNat = b.toNat := by rw [BitVec.toNat_append]; simp
    rw [encode, toNat_packFields, hdata]
    simp
  · calc exec (.sample b) s = .next (s.acceptSample fmt b) := execSample_run b hp
      _ = .next ((s.fbWrite s.cnt b).setCnt (cntSucc s.cnt)) := by rw [acceptSample_next fmt b hc]
      _ = _ := by rw [cntSucc_eq hc]; rfl
  · refine ⟨s.powerBits fmt _, fun j => ⟨_, getElem_powerBits_fmt s _ j⟩, ?_⟩
    calc exec (.sample b) s = .next (s.acceptSample fmt b) := execSample_run b hp
      _ = _ := by rw [acceptSample_last_eq fmt b hc]; rfl

/-- Settles O12: its word has all three fields 0, and its arm answers the state it is given. -/
theorem nopLeavesStateUnchanged : Obligations.NopLeavesStateUnchanged := by
  unfold Obligations.NopLeavesStateUnchanged
  exact ⟨by decide, fun _ => rfl⟩

/-- Settles O13: `resetRegisters` is the table of R29 over the buffer and the streams of the state, and the reset
input runs the same arm (R137). -/
theorem resetWritesTheResetTable : Obligations.ResetWritesTheResetTable := by
  unfold Obligations.ResetWritesTheResetTable
  exact ⟨by decide, fun _ => rfl, fun _ _ => takeMove_reset rfl, rfl⟩

/-- Settles O14: the phase first, then whether the encoding is supported. -/
theorem startOpensOrRefuses : Obligations.StartOpensOrRefuses := by
  unfold Obligations.StartOpensOrRefuses
  refine ⟨by decide, fun s => ⟨fun hp henc => ?_, fun hp henc => ?_, fun hp => execStart_run hp⟩⟩
  · calc exec .start s = _ := execStart_idle hp
      _ = .next s.openSession := by rw [if_pos (encSupported_iff.mpr henc)]
  · have hbad : ¬ encSupported s.enc = true := by
      rcases henc with h | h <;> simp [encSupported_iff, h]
    calc exec .start s = _ := execStart_idle hp
      _ = .next (s.raise .cfgerr) := by rw [if_neg hbad]

/-- Settles O16: the phase decides, and `CNT` is not looked at. -/
theorem eosClosesTheSession : Obligations.EosClosesTheSession := by
  unfold Obligations.EosClosesTheSession
  exact ⟨by decide, fun s => ⟨fun hp => execEos_run hp, fun hp => execEos_idle hp⟩⟩

end Sys2Proof.Machine

namespace Sys2Proof.Machine

/-! Rounding leaves a value of the format as it is (R69), so a sample is normalised without error (R64). -/

/-- An exact quotient has nothing to round. -/
theorem roundQuot_of_dvd {n d : Nat} (h : d ∣ n) (hd : 0 < d) : roundQuot n d = n / d := by
  simp [roundQuot, Nat.mod_eq_zero_of_dvd h, hd]

/-- A magnitude of at most 24 significant bits is one of the format's. -/
theorem roundMag_of_dvd {m : Nat} (h : 2 ^ (m.log2 - 23) ∣ m) : roundMag m 1 = m := by
  simp only [roundMag, Nat.div_one, Nat.one_mul, roundQuot_of_dvd h (Nat.two_pow_pos _), Nat.div_mul_cancel h]

theorem B32.representable_fin_iff {s : Bool} {m : Nat} :
    (B32.fin s m).representable = true ↔ m < B32.overflow ∧ 2 ^ (m.log2 - 23) ∣ m := by
  simp [B32.representable, Nat.dvd_iff_mod_eq_zero]

/-- A fraction whose value is in the format is not changed by rounding. -/
theorem B32.round_of_representable {s : Bool} {m n d : Nat} (h : (B32.fin s m).representable = true) (hd : 0 < d)
    (hn : n = m * d) : B32.round s n d = .fin s m := by
  obtain ⟨hlt, hdvd⟩ := B32.representable_fin_iff.mp h
  have hmag : roundMag n d = m := by
    rw [roundMag_congr hd Nat.one_pos (by rw [hn, Nat.mul_one]), roundMag_of_dvd hdvd]
  simp only [B32.round, hmag, if_pos hlt]

/-- An integer of at most 24 bits at any binary weight is in the format, if it does not overflow. -/
theorem B32.representable_mul_two_pow (s : Bool) {k e : Nat} (hk : k < 2 ^ 24) (hlt : k * 2 ^ e < B32.overflow) :
    (B32.fin s (k * 2 ^ e)).representable = true := by
  refine B32.representable_fin_iff.mpr ⟨hlt, ?_⟩
  rcases Nat.eq_zero_or_pos k with rfl | hpos
  · simp
  · have hne : k * 2 ^ e ≠ 0 := by positivity
    have hlog : (k * 2 ^ e).log2 < 24 + e := by
      rw [Nat.log2_lt hne, pow_add]
      exact Nat.mul_lt_mul_of_pos_right hk (by positivity)
    exact Dvd.dvd.mul_left (Nat.pow_dvd_pow 2 (by omega)) k

theorem B32.two_pow_lt_overflow {e : Nat} (h : e < 277) : 2 ^ e < B32.overflow := by
  rwa [B32.overflow, Nat.pow_lt_pow_iff_right Nat.one_lt_two]

/-- The integer of a sample lies in -128..127, whatever the encoding (R46). -/
theorem natAbs_sampleValue_le (enc : BitVec 2) (b : Byte) : (sampleValue enc b).natAbs ≤ 128 := by
  unfold sampleValue
  split
  · have := b.toInt_lt
    have := b.le_toInt
    omega
  · have := b.isLt
    omega

theorem B32.representable_sample (s : Bool) (enc : BitVec 2) (b : Byte) :
    (B32.fin s ((sampleValue enc b).natAbs * 2 ^ 142)).representable = true := by
  have hle := natAbs_sampleValue_le enc b
  refine B32.representable_mul_two_pow s (by omega) ?_
  calc (sampleValue enc b).natAbs * 2 ^ 142 ≤ 128 * 2 ^ 142 := Nat.mul_le_mul_right _ hle
    _ = 2 ^ 149 := by norm_num
    _ < B32.overflow := B32.two_pow_lt_overflow (by decide)

/-- A normalised sample as sign and magnitude: its integer over 128 is that many units of 2^-7, exactly (R64). -/
theorem norm_fmt {enc : BitVec 2} (b : Byte) (h : encSupported enc = true) :
    norm fmt enc b = .fin (decide (sampleValue enc b < 0)) ((sampleValue enc b).natAbs * 2 ^ 142) := by
  have hunits : (sampleValue enc b).natAbs * 2 ^ 149 = (sampleValue enc b).natAbs * 2 ^ 142 * 128 := by ring
  calc norm fmt enc b = B32.ofRat (sampleValue enc b) 128 := by
        simp only [norm, h, if_true, fmt, binary32, Config.fullScale]
    _ = _ := by rw [B32.ofRat, B32.round_of_representable (B32.representable_sample _ enc b) (by decide) hunits]

/-- The sign and the absolute value of an integer give it back. -/
theorem B32.toRat_fin_natAbs (v : Int) (k : Nat) :
    (B32.fin (decide (v < 0)) (v.natAbs * k)).toRat = v * k / (2 ^ 149 : Nat) := by
  have habs : (v.natAbs : Rat) = |(v : Rat)| := by rw [Nat.cast_natAbs, Int.cast_abs]
  rcases lt_or_ge v 0 with h | h
  · have hv : (v : Rat) < 0 := by exact_mod_cast h
    simp [B32.toRat, h, habs, abs_of_neg hv]
  · have hv : 0 ≤ (v : Rat) := by exact_mod_cast h
    simp [B32.toRat, not_lt.mpr h, habs, abs_of_nonneg hv]

theorem norm_fmt_toRat {enc : BitVec 2} (b : Byte) (h : encSupported enc = true) :
    (norm fmt enc b).toRat = (sampleValue enc b : Rat) / 128 := by
  rw [norm_fmt b h, B32.toRat_fin_natAbs]
  push_cast
  ring

theorem norm_fmt_representable {enc : BitVec 2} (b : Byte) (h : encSupported enc = true) :
    (norm fmt enc b).representable = true := by
  rw [norm_fmt b h]
  exact B32.representable_sample _ enc b

/-- Settles O41: the magnitude `|s|·2^142` has at most 8 significant bits, so rounding keeps it. -/
theorem normalisedSamplesAreExact : Obligations.NormalisedSamplesAreExact := by
  unfold Obligations.NormalisedSamplesAreExact
  intro b
  refine ⟨?_, ?_, norm_fmt_representable b rfl, norm_fmt_representable b rfl, norm_fmt _ rfl, norm_fmt _ rfl⟩
  · rw [norm_fmt_toRat b rfl]
    simp [sampleValue]
  · rw [norm_fmt_toRat b rfl]
    simp [sampleValue]

/-! The recurrence of a lane (R65). -/

/-- A sequence that starts at the lane's zeros and follows the recurrence over the samples holds both temporaries of
the lane, `u0` the newer value. -/
theorem laneRun_eq_of_recurrence {F : Type} (A : Arith F) (c : F) (u : Nat → F) (h0 : u 0 = A.zero)
    (h1 : u 1 = A.zero) (xs : List F)
    (hstep : ∀ n (h : n < xs.length), u (n + 2) = A.sub (A.add xs[n] (A.mul c (u (n + 1)))) (u n)) :
    laneRun A c xs = ⟨u (xs.length + 1), u xs.length⟩ := by
  induction xs using List.reverseRecOn with
  | nil => rw [laneRun_nil, laneStart, List.length_nil, h0, h1]
  | append_singleton xs x ih =>
    have hinit : laneRun A c xs = ⟨u (xs.length + 1), u xs.length⟩ := by
      refine ih fun n h => ?_
      have hn := hstep n (by rw [List.length_append]; omega)
      rwa [List.getElem_append_left h] at hn
    have hlast : u (xs.length + 2) = A.sub (A.add x (A.mul c (u (xs.length + 1)))) (u xs.length) := by
      simpa using hstep xs.length (by simp)
    rw [laneRun_concat, hinit, laneStep, ← hlast, List.length_append, List.length_singleton]

/-- The power of a bin in the terms of the recurrence over the bytes of the frame (R63 to R66). -/
theorem getElem_estimate_of_recurrence {F : Type} (A : Format F) (frame : List Byte) (enc : BitVec 2) (j : Fin 18)
    (u : Nat → F) (h0 : u 0 = A.zero) (h1 : u 1 = A.zero)
    (hstep : ∀ n (h : n < frame.length),
      u (n + 2) = A.sub (A.add (norm A enc frame[n]) (A.mul (coef A j) (u (n + 1)))) (u n)) :
    (estimate A frame enc)[j] = laneCombine A.toArith (coef A j) ⟨u (frame.length + 1), u frame.length⟩ := by
  have hlane := laneRun_eq_of_recurrence A.toArith (coef A j) u h0 h1 (normFrame A enc frame)
    (by simpa [normFrame] using hstep)
  rw [getElem_estimate, lanePower, hlane, normFrame, List.length_map]

/-- The centre frequency with the parameters of R8 filled in (R75). -/
theorem centreHz_eq (j : Bin) : centreHz j = (binIndex j : Rat) * 8000 / 240 := by
  simp [centreHz, Config.sampleRate]

/-- Settles O42: the columns of the table row by row, and the lane by induction over the samples. -/
theorem powerFollowsTheRecurrence : Obligations.PowerFollowsTheRecurrence := by
  unfold Obligations.PowerFollowsTheRecurrence
  refine ⟨fun j => ⟨rfl, rfl, rfl, centreHz_eq j, coef_fmt j, ?nearest, ?decimal⟩, by decide, ?power⟩
  case nearest => revert j; decide +kernel
  case decimal => revert j; decide +kernel
  case power =>
    intro frame enc j u c h0 h1 hstep
    have hc : coef fmt j = c := coef_fmt j
    have hpower := getElem_estimate_of_recurrence fmt frame enc j u h0 h1 (hc ▸ hstep)
    rw [hpower, hc]
    rfl

end Sys2Proof.Machine

namespace Sys2Proof.Machine

/-! The decision of the classifier as a function of the on-set, a finite set of bins (R85 to R99), and what of it depends
on `MF` (R100). -/

/-! ### The on-set -/

/-- The on-set of an on-vector: the bins whose bit is 1 (R85). -/
def onSet (on : BitVec 18) : Finset Bin := {j | isOn on j}

@[simp] theorem mem_onSet {on : BitVec 18} {j : Bin} : j ∈ onSet on ↔ isOn on j = true := by simp [onSet]

/-- The size of the on-set is `cnt` (R85). -/
theorem card_onSet (on : BitVec 18) : (onSet on).card = onCount on := by
  have hset : onSet on = ((List.finRange 18).filter (isOn on)).toFinset := by
    ext j
    simp
  rw [hset, List.toFinset_card_of_nodup ((List.nodup_finRange 18).filter _), onCount, List.countP_eq_length_filter]

/-- A vector is determined by its on-set. -/
theorem onSet_injective : Function.Injective onSet := by
  intro a b h
  refine BitVec.eq_of_getLsbD_eq fun i hi => Bool.eq_iff_iff.mpr ?_
  have hmem : (⟨i, hi⟩ : Bin) ∈ onSet a ↔ ⟨i, hi⟩ ∈ onSet b := by rw [h]
  simpa [isOn] using hmem

@[simp] theorem onSet_zero : onSet 0#18 = ∅ := by
  ext j
  simp [isOn]

@[simp] theorem isOn_twoPow (a j : Bin) : isOn (BitVec.twoPow 18 a.val) j = decide (j = a) := by
  simp [isOn, Fin.ext_iff, eq_comm]

@[simp] theorem onSet_twoPow (a : Bin) : onSet (BitVec.twoPow 18 a.val) = {a} := by
  ext j
  simp

@[simp] theorem onSet_pairMask (a b : Bin) : onSet (pairMask a b) = {a, b} := by
  ext j
  have hor : isOn (pairMask a b) j = (isOn (BitVec.twoPow 18 a.val) j || isOn (BitVec.twoPow 18 b.val) j) := by
    rw [pairMask, isOn, BitVec.getLsbD_or]
    rfl
  simp [hor]

theorem onCount_eq_zero_iff {on : BitVec 18} : onCount on = 0 ↔ on = 0#18 := by
  rw [← card_onSet, Finset.card_eq_zero, ← onSet_zero, onSet_injective.eq_iff]

theorem onCount_eq_one_iff {on : BitVec 18} : onCount on = 1 ↔ ∃ j : Bin, on = BitVec.twoPow 18 j.val := by
  simp_rw [← card_onSet, Finset.card_eq_one, ← onSet_twoPow, onSet_injective.eq_iff]

/-- With two bins on, any two different bins that are on are the whole on-set. -/
theorem eq_pairMask_of_isOn {on : BitVec 18} {a b : Bin} (h : onCount on = 2) (hab : a ≠ b) (ha : isOn on a = true)
    (hb : isOn on b = true) : on = pairMask a b := by
  have hsub : {a, b} ⊆ onSet on := by simp [Finset.insert_subset_iff, ha, hb]
  have hcard : (onSet on).card ≤ ({a, b} : Finset Bin).card := by rw [card_onSet, h, Finset.card_pair hab]
  exact onSet_injective ((Finset.eq_of_subset_of_card_le hsub hcard).symm.trans (onSet_pairMask a b).symm)

/-! ### The dispatch on the count (R86) -/

section Dispatch
variable {on : BitVec 18} (mf : Bool)

theorem decideOnSet_single (h : onCount on = 1) : decideOnSet on mf = (decideSingle on, mf) := by
  simp [decideOnSet, h]

theorem decideOnSet_pair (h : onCount on = 2) : decideOnSet on mf = decidePair on mf := by
  simp [decideOnSet, h]

theorem decideOnSet_many (h : 2 < onCount on) : decideOnSet on mf = (.invalid, mf) := by
  simp [decideOnSet, show onCount on ≠ 0 by omega, show onCount on ≠ 1 by omega, show onCount on ≠ 2 by omega]

end Dispatch

/-- R88 for the one bin that is on. -/
theorem decideSingle_twoPow (j : Bin) :
    decideSingle (BitVec.twoPow 18 j.val) = if j = 16 then .s2400 else if j = 17 then .s2600 else .invalid := by
  simp only [decideSingle, isOn_twoPow, decide_eq_true_eq, eq_comm (b := j)]
  rfl

/-- Settles O52: the one bin on decides the symbol by its position. -/
theorem singleBinDecision : Obligations.SingleBinDecision := by
  unfold Obligations.SingleBinDecision
  intro on mf h
  obtain ⟨j, rfl⟩ := onCount_eq_one_iff.mp h
  refine ⟨j, rfl, by rw [decideOnSet_single mf h], ?_⟩
  rw [decideOnSet_single mf h, decideSingle_twoPow]
  split_ifs <;> rfl

/-- Settles O54: an empty on-set is the zero vector, and more than two bins reach the last case of the dispatch. -/
theorem otherCountsDecision : Obligations.OtherCountsDecision := by
  unfold Obligations.OtherCountsDecision
  intro on mf
  refine ⟨fun h => ?_, fun h => ?_⟩
  · obtain rfl := onCount_eq_zero_iff.mp h
    exact ⟨rfl, decideOnSet_zero mf⟩
  · rw [decideOnSet_many mf h]
    exact ⟨rfl, rfl⟩

/-! ### What depends on `MF` -/

/-- The symbol of two bins is that of the first test that answers (R89, R98). -/
theorem decidePair_fst (on : BitVec 18) (mf : Bool) :
    (decidePair on mf).1 =
      (((callProgress on).or (supervisoryPair on)).or ((dtmfTest on mf).or (mfTest on))).getD .invalid := by
  unfold decidePair
  rcases callProgress on with _ | x
  · rcases supervisoryPair on with _ | x
    · rcases dtmfTest on mf with _ | x
      · rcases mfTest on with _ | x <;> rfl
      · rfl
    · rfl
  · rfl

theorem isOn_of_mem_rowsOn {on : BitVec 18} {r : Fin 4} (h : r ∈ rowsOn on) : isOn on (rowBin r) = true :=
  (List.mem_filter.mp h).2

theorem isOn_of_mem_colsOn {on : BitVec 18} {c : Fin 4} (h : c ∈ colsOn on) : isOn on (colBin c) = true :=
  (List.mem_filter.mp h).2

/-- Away from the cell (row 0, column 2) the DTMF test does not look at `MF` (R94). -/
theorem dtmfTest_mf {on : BitVec 18} (h : ¬ (isOn on Bin.R1 = true ∧ isOn on Bin.C3 = true)) :
    dtmfTest on true = dtmfTest on false := by
  unfold dtmfTest
  split
  · next row col hrow hcol =>
    have hcell : ¬ (row = 0 ∧ col = 2) := by
      rintro ⟨rfl, rfl⟩
      exact h ⟨isOn_of_mem_rowsOn (r := 0) (by simp [hrow]), isOn_of_mem_colsOn (c := 2) (by simp [hcol])⟩
    rw [if_neg fun hc => hcell ⟨hc.1, hc.2.1⟩, if_neg fun hc => hcell ⟨hc.1, hc.2.1⟩]
  · rfl

/-- R100 for the decision: the symbol depends on `MF` only on the on-set {4, 13}. -/
theorem decideOnSet_fst_mf {on : BitVec 18} (h : on ≠ pairMask 4 13) :
    (decideOnSet on true).1 = (decideOnSet on false).1 := by
  by_cases h2 : onCount on = 2
  · have hcell : ¬ (isOn on Bin.R1 = true ∧ isOn on Bin.C3 = true) :=
      fun hc => h (eq_pairMask_of_isOn h2 (by decide) hc.1 hc.2)
    rw [decideOnSet_pair true h2, decideOnSet_pair false h2, decidePair_fst, decidePair_fst, dtmfTest_mf hcell]
  · unfold decideOnSet
    split_ifs <;> rfl

/-- `MF` marks no bin: the on-vector is a function of the other three operands (R82, R84). -/
theorem classify_on_mf {F : Type} (A : Format F) (p : Vector F 18) (thresh range : F) :
    (classify A p thresh range true).on = (classify A p thresh range false).on := by
  rcases h : A.lt (maxPower A p) thresh with _ | _
  · rw [classify_decide h, classify_decide h]
  · rw [classify_floor h, classify_floor h]

/-- R100 for `CLASSIFY`. -/
theorem classify_sym_mf {F : Type} (A : Format F) (p : Vector F 18) (thresh range : F)
    (hne : (classify A p thresh range false).on ≠ pairMask 4 13) :
    (classify A p thresh range true).sym = (classify A p thresh range false).sym := by
  rcases h : A.lt (maxPower A p) thresh with _ | _
  · rw [classify_decide h] at hne
    rw [classify_decide h, classify_decide h]
    exact decideOnSet_fst_mf hne
  · rw [classify_floor h, classify_floor h]

/-- Settles O55: `mf'` is `mfAfter` of the symbol, and the floor and the on-set are found without `mf`. -/
theorem mfFollowsKpAndSt : Obligations.MfFollowsKpAndSt := by
  unfold Obligations.MfFollowsKpAndSt
  intro p thresh range v
  exact ⟨fun mf => classify_mf fmt p thresh range mf, classify_on_mf fmt p thresh range,
    classify_sym_mf fmt p thresh range⟩

/-! ### The floor and the cutoff -/

/-- No value is below itself, a NaN included. -/
@[simp] theorem B32.lt_self (x : B32) : B32.lt x x = false := by
  cases h : B32.place x with
  | none => simp [B32.lt, h]
  | some n => simp [B32.lt, h]

/-- Settles O48: `maxp` is one of the powers, so it is below the floor when they all are. -/
theorem quietFramesAreSilence : Obligations.QuietFramesAreSilence := by
  unfold Obligations.QuietFramesAreSilence
  intro p thresh range mf
  refine ⟨fun h => classify_floor h, fun hall => ?_, fun heq => by rw [heq, B32.lt_self]⟩
  obtain ⟨j, hj⟩ := maxPower_mem fmt p
  have hbelow : B32.lt (maxPower fmt p) thresh = true := hj ▸ hall j
  exact classify_floor hbelow

/-- Settles O49, from the verdict of a frame that passes the floor. -/
theorem classifyMarksBinsAboveCutoff : Obligations.ClassifyMarksBinsAboveCutoff := by
  unfold Obligations.ClassifyMarksBinsAboveCutoff
  intro p thresh range mf h v
  have hv : v = _ := classify_decide (A := fmt) h
  rw [hv]
  exact ⟨fun j => getLsbD_onVector fmt p _ j, rfl⟩

end Sys2Proof.Machine

namespace Sys2Proof.Machine

/-! The register access commands (R104, R105), each read off the register map (R26). -/

/-! ### The register map -/

@[simp] theorem Csr.toNat_addr_power (j : Bin) : (Csr.power j).addr.toNat = 8 + j.val := by
  rw [Csr.addr, BitVec.toNat_ofNat, Nat.mod_eq_of_lt (by omega)]

/-- Every register answers at its own address. -/
@[simp] theorem Csr.ofAddr_addr (c : Csr) : Csr.ofAddr c.addr = some c := by
  cases c with
  | power j => revert j; decide
  | cfg | thresh | range | status | frames | symbol | onmask => rfl

/-- No other address leads to a register. -/
theorem Csr.eq_addr_of_ofAddr {a : CsrAddr} {c : Csr} (h : Csr.ofAddr a = some c) : a = c.addr := by
  unfold Csr.ofAddr at h
  split_ifs at h <;> cases h
  any_goals assumption
  have hj : a.toNat = 8 + (a.toNat - 8) := by omega
  exact BitVec.eq_of_toNat_eq (by rwa [Csr.toNat_addr_power])

/-- The reserved addresses of R26. -/
theorem Csr.ofAddr_eq_none_iff {a : CsrAddr} : Csr.ofAddr a = none ↔ a = 0x07#5 ∨ 26 ≤ a.toNat := by
  revert a; decide

/-! ### `WRCSR` and `RDCSR` at an address of the map -/

section Access
variable {a : CsrAddr} {v : Word} {s : State}

/-- Above `0x02` no register can be written (R104). -/
theorem exec_wrcsr_readOnly (hp : s.phase = .idle) (ha : 3 ≤ a.toNat) :
    exec (.wrcsr a v) s = .next (s.raise .illcmd) := by
  have hne : ∀ c : Csr, c.addr.toNat < 3 → Csr.ofAddr a ≠ some c := by
    intro c hc hof
    rw [Csr.eq_addr_of_ofAddr hof] at ha
    omega
  calc exec (.wrcsr a v) s = _ := execWrcsr_idle a v hp
    _ = .next (s.raise .illcmd) := by
      rw [if_neg (hne .cfg (by decide)), if_neg (hne .thresh (by decide)), if_neg (hne .range (by decide))]

/-- A read at the address of a register, in either phase (R105). -/
theorem exec_rdcsr_addr (c : Csr) : exec (.rdcsr c.addr) s = .next (s.appendRsp (s.readCsr c)) :=
  execRdcsr_some (Csr.ofAddr_addr c)

/-- A read at a reserved address still answers (R105). -/
theorem exec_rdcsr_reserved (ha : a = 0x07#5 ∨ 26 ≤ a.toNat) :
    exec (.rdcsr a) s = .next ((s.appendRsp 0#32).raise .illcmd) :=
  execRdcsr_none (Csr.ofAddr_eq_none_iff.mpr ha)

end Access

/-- Settles O17: in `IDLE` the map picks the register, and the phase is looked at before the address. -/
theorem wrcsrWritesConfiguration : Obligations.WrcsrWritesConfiguration := by
  unfold Obligations.WrcsrWritesConfiguration
  intro s a v
  refine ⟨?word, fun hp => execWrcsr_run a v hp, ?cfg, ?thresh, ?range, fun hp ha => exec_wrcsr_readOnly hp ha⟩
  case word => rw [encode, toNat_packFields]; simp
  case cfg => rintro hp rfl; exact execWrcsr_idle Csr.cfg.addr v hp
  case thresh => rintro hp rfl; exact execWrcsr_idle Csr.thresh.addr v hp
  case range => rintro hp rfl; exact execWrcsr_idle Csr.range.addr v hp

/-- Settles O18: each address is that of a register or a reserved one, and a view narrower than a word is read with
zeros above it. -/
theorem rdcsrAnswersOneWord : Obligations.RdcsrAnswersOneWord := by
  unfold Obligations.RdcsrAnswersOneWord
  intro s a answer
  have hread : ∀ (c : Csr) (w : Word), s.readCsr c = w → a = c.addr → exec (.rdcsr a) s = .next (answer w) := by
    rintro c w rfl rfl
    exact exec_rdcsr_addr c
  refine ⟨?word, hread .cfg _ ?cfg, hread .thresh _ rfl, hread .range _ rfl, hread .status _ rfl,
    hread .frames _ rfl, hread .symbol _ ?symbol, hread .onmask _ ?onmask, ?power, fun ha => exec_rdcsr_reserved ha⟩
  case word => rw [encode, toNat_packFields]; simp
  case cfg | symbol | onmask => exact (BitVec.setWidth_eq_append (by decide)).symm
  case power =>
    intro j ha
    have haddr : a = (Csr.power j).addr := BitVec.eq_of_toNat_eq (by rw [ha, Csr.toNat_addr_power])
    exact hread (.power j) _ rfl haddr

end Sys2Proof.Machine

namespace Sys2Proof.Machine

/-! The error flags: the one flag a refused word raises (R120 to R122, in the order of checks of R125), that nothing but
`RESET` clears a flag, and that no command looks at one but the read of `STATUS` (R128). -/

/-! ### The flags as a function of their name -/

/-- The bit of a flag `raise` names (R118). -/
def State.flag (s : State) : ErrFlag → Bool
  | .cfgerr => s.cfgerr
  | .seqerr => s.seqerr
  | .illcmd => s.illcmd

/-- The state with other values in the flags, and nothing else changed. -/
def State.withFlags (s : State) (g : ErrFlag → Bool) : State :=
  { s with cfgerr := g .cfgerr, seqerr := g .seqerr, illcmd := g .illcmd }

section Flags
variable {F : Type} (A : Format F) (s : State) (g : ErrFlag → Bool)

@[simp] theorem State.flag_withFlags : (s.withFlags g).flag = g := by funext f; cases f <;> rfl

@[simp] theorem State.withFlags_flag : s.withFlags s.flag = s := rfl

@[simp] theorem State.flag_raise (e f : ErrFlag) : (s.raise e).flag f = (s.flag f || e == f) := by
  cases f <;> simp [State.flag]

@[simp] theorem State.flag_appendRsp (w : Word) : (s.appendRsp w).flag = s.flag := by funext f; cases f <;> rfl

/-- Raising a flag looks at none (R118). -/
theorem State.raise_withFlags (e : ErrFlag) :
    (s.withFlags g).raise e = (s.raise e).withFlags ((s.withFlags g).raise e).flag := by
  cases e <;> rfl

theorem State.readCsr_withFlags {c : Csr} (hc : c ≠ .status) : (s.withFlags g).readCsr c = s.readCsr c := by
  cases c with
  | status => exact absurd rfl hc
  | cfg | thresh | range | frames | symbol | onmask | power j => rfl

/-- The estimator, the classifier and the images of the powers read no flag (R57). -/
theorem State.frameDone_withFlags : (s.withFlags g).frameDone A = (s.frameDone A).withFlags g := by
  have hpowers : (s.withFlags g).framePowers A = s.framePowers A := framePowers_congr A rfl rfl
  have hverdict : ∀ p, (s.withFlags g).verdictOn A p = s.verdictOn A p := fun p => verdictOn_congr A p rfl rfl rfl
  have hbits : ∀ p, (s.withFlags g).powerBits A p = s.powerBits A p := fun p => powerBits_congr A p rfl
  rw [State.frameDone, hpowers, hverdict, hbits]
  rfl

theorem State.acceptSample_withFlags (b : Byte) :
    (s.withFlags g).acceptSample A b = (s.acceptSample A b).withFlags g := by
  by_cases hc : s.cnt.val = 239
  · rw [acceptSample_last A b (Fin.ext hc), acceptSample_last A b (s := s.withFlags g) (Fin.ext hc),
      ← State.frameDone_withFlags]
    rfl
  · have hlt : s.cnt.val < 239 := by omega
    rw [acceptSample_next A b hlt, acceptSample_next A b (s := s.withFlags g) hlt]
    rfl

end Flags

/-! ### The flag a word raises -/

/-- The flag a decoded word raises, none where it is accepted: the word is checked first, then the phase, then the
command's own operand (R125). -/
def errorOf : Decoded → State → Option ErrFlag
  | .illegal _, _ => some .illcmd
  | .instr .nop, _ | .instr .reset, _ => none
  | .instr (.reservedOp6 _), _ => some .illcmd
  | .instr (.sample _), s | .instr .eos, s => if s.phase = .idle then some .seqerr else none
  | .instr .start, s =>
    if s.phase = .run then some .seqerr else if encSupported s.enc then none else some .cfgerr
  | .instr (.wrcsr a _), s =>
    if s.phase = .run then some .seqerr else if 3 ≤ a.toNat then some .illcmd else none
  | .instr (.rdcsr a), _ => if a = 0x07#5 ∨ 26 ≤ a.toNat then some .illcmd else none

/-- The state a refused word raises its flag in: a read has answered 0 by then, and no other word has done anything
(R118). -/
def State.beforeRaise (s : State) : Decoded → State
  | .instr (.rdcsr _) => s.appendRsp 0#32
  | _ => s

theorem Phase.ne_run_iff {p : Phase} : p ≠ .run ↔ p = .idle := by cases p <;> simp

theorem Phase.ne_idle_iff {p : Phase} : p ≠ .idle ↔ p = .run := by cases p <;> simp

section ErrorOf
variable {x : Decoded} {s : State} {e : ErrFlag}

/-- The four events of R120. -/
theorem errorOf_eq_seqerr_iff : errorOf x s = some .seqerr ↔
    (s.phase = .idle ∧ ((∃ b, x = .instr (.sample b)) ∨ x = .instr .eos)) ∨
      (s.phase = .run ∧ (x = .instr .start ∨ ∃ a v, x = .instr (.wrcsr a v))) := by
  rcases x with i | r
  · cases i with
    | nop | reset | reservedOp6 y | rdcsr a => simp [errorOf]
    | sample b | eos | start | wrcsr a v => rcases hp : s.phase with _ | _ <;> simp [errorOf, hp]
  · simp [errorOf]

/-- The three events of R121. -/
theorem errorOf_eq_illcmd_iff : errorOf x s = some .illcmd ↔
    ¬ DecodesToCommand x ∨ (s.phase = .idle ∧ ∃ a v, x = .instr (.wrcsr a v) ∧ 3 ≤ a.toNat) ∨
      ∃ a, x = .instr (.rdcsr a) ∧ (a = 0x07#5 ∨ 26 ≤ a.toNat) := by
  rcases x with i | r
  · cases i with
    | nop | reset | reservedOp6 y | rdcsr a => simp [errorOf, Instr.isCommand, or_iff_not_imp_left]
    | sample b | eos | start | wrcsr a v =>
      rcases hp : s.phase with _ | _ <;> simp [errorOf, hp, Instr.isCommand]
  · simp [errorOf]

/-- The one event of R122. -/
theorem errorOf_eq_cfgerr_iff : errorOf x s = some .cfgerr ↔
    x = .instr .start ∧ s.phase = .idle ∧ ¬ encSupported s.enc = true := by
  rcases x with i | r
  · cases i with
    | nop | reset | reservedOp6 y | rdcsr a => simp [errorOf]
    | sample b | eos | start | wrcsr a v => rcases hp : s.phase with _ | _ <;> simp [errorOf, hp]
  · simp [errorOf]

/-- A refused word sets its flag and, apart from the answer of a read, does nothing else (R118). -/
theorem execDecoded_of_errorOf (he : errorOf x s = some e) : execDecoded x s = .next ((s.beforeRaise x).raise e) := by
  cases e with
  | seqerr =>
    rcases errorOf_eq_seqerr_iff.mp he with ⟨hp, ⟨b, rfl⟩ | rfl⟩ | ⟨hp, rfl | ⟨a, v, rfl⟩⟩
    · exact execSample_idle b hp
    · exact execEos_idle hp
    · exact execStart_run hp
    · exact execWrcsr_run a v hp
  | illcmd =>
    rcases errorOf_eq_illcmd_iff.mp he with hx | ⟨hp, a, v, rfl, ha⟩ | ⟨a, rfl, ha⟩
    · have hs : s.beforeRaise x = s := by
        rcases x with i | r
        · cases i with
          | rdcsr a => exact absurd ⟨_, rfl, rfl⟩ hx
          | nop | sample b | eos | start | wrcsr a v | reset | reservedOp6 y => rfl
        · rfl
      rw [hs]
      exact execDecoded_of_not_command s hx
    · exact exec_wrcsr_readOnly hp ha
    · exact exec_rdcsr_reserved ha
  | cfgerr =>
    obtain ⟨rfl, hp, henc⟩ := errorOf_eq_cfgerr_iff.mp he
    calc execDecoded (.instr .start) s = _ := execStart_idle hp
      _ = .next (s.raise .cfgerr) := by rw [if_neg henc]

/-- Only an `ILLCMD` can come after an answer. -/
theorem beforeRaise_of_errorOf (he : errorOf x s = some e) (hne : e ≠ .illcmd) : s.beforeRaise x = s := by
  rcases x with i | r
  · cases i with
    | rdcsr a => simp [errorOf, hne.symm] at he
    | nop | sample b | eos | start | wrcsr a v | reset | reservedOp6 y => rfl
  · rfl

@[simp] theorem State.flag_beforeRaise : (s.beforeRaise x).flag = s.flag := by
  unfold State.beforeRaise
  split
  · exact State.flag_appendRsp s _
  · rfl

theorem State.beforeRaise_withFlags (g : ErrFlag → Bool) :
    (s.withFlags g).beforeRaise x = (s.beforeRaise x).withFlags g := by
  unfold State.beforeRaise
  split <;> rfl

/-- Whether a word is refused does not depend on the flags (R128). -/
@[simp] theorem errorOf_withFlags (g : ErrFlag → Bool) : errorOf x (s.withFlags g) = errorOf x s := by
  rcases x with i | r
  · cases i <;> rfl
  · rfl

end ErrorOf

/-! ### What a command makes of the flags -/

/-- The addresses a `WRCSR` may write (R104). -/
theorem Csr.ofAddr_of_lt_three {a : CsrAddr} (ha : a.toNat < 3) :
    Csr.ofAddr a = some .cfg ∨ Csr.ofAddr a = some .thresh ∨ Csr.ofAddr a = some .range := by
  revert a; decide

section Exec
variable {i : Instr} {x : Decoded} {s t : State}

/-- An accepted command neither looks at the flags nor touches them, `RESET` and the read of `STATUS` apart (R128). -/
theorem exec_withFlags_of_accepted (g : ErrFlag → Bool) (h : exec i s = .next t) (he : errorOf (.instr i) s = none)
    (hreset : i ≠ .reset) (hstatus : i ≠ .rdcsr 0x03#5) : exec i (s.withFlags g) = .next (t.withFlags g) := by
  cases i with
  | reset => exact absurd rfl hreset
  | reservedOp6 y => simp [errorOf] at he
  | nop => cases h; rfl
  | sample b =>
    have hp : s.phase = .run := by simpa [errorOf, Phase.ne_idle_iff] using he
    rw [exec, execSample_run b hp] at h
    cases h
    rw [exec, execSample_run (s := s.withFlags g) b hp, State.acceptSample_withFlags]
  | eos =>
    have hp : s.phase = .run := by simpa [errorOf, Phase.ne_idle_iff] using he
    rw [exec, execEos_run hp] at h
    cases h
    exact execEos_run hp
  | start =>
    have hp : s.phase = .idle := Phase.ne_run_iff.mp fun hp => by simp [errorOf, hp] at he
    have henc : encSupported s.enc = true := by simpa [errorOf, hp] using he
    rw [exec, execStart_idle hp, if_pos henc] at h
    cases h
    exact (execStart_idle (s := s.withFlags g) hp).trans (congrArg _ (if_pos henc))
  | wrcsr a v =>
    have hp : s.phase = .idle := Phase.ne_run_iff.mp fun hp => by simp [errorOf, hp] at he
    have ha : a.toNat < 3 := by simpa [errorOf, hp] using he
    rw [exec, execWrcsr_idle a v hp] at h
    cases h
    rw [exec, execWrcsr_idle (s := s.withFlags g) a v hp]
    rcases Csr.ofAddr_of_lt_three ha with hc | hc | hc <;> rw [hc] <;> rfl
  | rdcsr a =>
    have ha : ¬ (a = 0x07#5 ∨ 26 ≤ a.toNat) := by simpa [errorOf] using he
    obtain ⟨c, hc⟩ := Option.ne_none_iff_exists'.mp (mt Csr.ofAddr_eq_none_iff.mp ha)
    obtain rfl := Csr.eq_addr_of_ofAddr hc
    have hc' : c ≠ .status := fun hst => hstatus (by rw [hst]; rfl)
    rw [exec_rdcsr_addr] at h
    cases h
    rw [exec_rdcsr_addr, State.readCsr_withFlags s g hc']
    rfl

/-- With other values in the flags a command does the same to everything else (R128). -/
theorem exec_withFlags (g : ErrFlag → Bool) (h : exec i s = .next t) (hstatus : i ≠ .rdcsr 0x03#5) :
    ∃ g', exec i (s.withFlags g) = .next (t.withFlags g') := by
  rcases he : errorOf (.instr i) s with _ | e
  · by_cases hreset : i = .reset
    · subst hreset
      cases h
      exact ⟨State.reset.flag, rfl⟩
    · exact ⟨g, exec_withFlags_of_accepted g h he hreset hstatus⟩
  · obtain rfl : (s.beforeRaise (.instr i)).raise e = t :=
      Host.Outcome.next.inj ((execDecoded_of_errorOf he).symm.trans h)
    have hg : exec i (s.withFlags g) = .next (((s.withFlags g).beforeRaise (.instr i)).raise e) :=
      execDecoded_of_errorOf ((errorOf_withFlags g).trans he)
    rw [hg, State.beforeRaise_withFlags, State.raise_withFlags]
    exact ⟨_, rfl⟩

/-- An accepted word leaves the flags: with the flags it found put into its answer, the answer is the same. -/
theorem flag_execDecoded_of_accepted (h : execDecoded x s = .next t) (he : errorOf x s = none)
    (hreset : x ≠ .instr .reset) : t.flag = s.flag := by
  rcases x with i | r
  · replace h : exec i s = .next t := h
    by_cases hstatus : i = .rdcsr 0x03#5
    · subst hstatus
      rw [show 0x03#5 = Csr.status.addr from rfl, exec_rdcsr_addr] at h
      cases h
      exact State.flag_appendRsp ..
    · have hsame := exec_withFlags_of_accepted s.flag h he (fun hi => hreset (by rw [hi])) hstatus
      rw [State.withFlags_flag, h, Host.Outcome.next.injEq] at hsame
      rw [hsame, State.flag_withFlags]
  · simp [errorOf] at he

/-- A word but `RESET` sets the flag it raises and leaves the others as they were (R118, R128). -/
theorem flag_execDecoded (h : execDecoded x s = .next t) (hreset : x ≠ .instr .reset) (f : ErrFlag) :
    t.flag f = (s.flag f || errorOf x s == some f) := by
  rcases he : errorOf x s with _ | e
  · simp [flag_execDecoded_of_accepted h he hreset]
  · rw [execDecoded_of_errorOf he] at h
    cases h
    simp

/-- A flag that goes from clear to set is the one the word raises. -/
theorem errorOf_of_flag_set {f : ErrFlag} (h : execDecoded x s = .next t) (hs : s.flag f = false)
    (ht : t.flag f = true) : errorOf x s = some f := by
  by_cases hreset : x = .instr .reset
  · subst hreset
    cases h
    cases f <;> cases ht
  · simpa [hs, ht] using flag_execDecoded h hreset f

end Exec

/-! ### The obligations -/

/-- Settles O22: the four events are those in which a word raises `SEQERR`. -/
theorem sequenceErrorsExactly : Obligations.SequenceErrorsExactly := by
  unfold Obligations.SequenceErrorsExactly
  intro w s event
  have hevent : errorOf (decode w) s = some .seqerr ↔ event := errorOf_eq_seqerr_iff
  refine ⟨fun hev => ?_, fun t h hs ht => hevent.mp (errorOf_of_flag_set h hs ht)⟩
  have he := hevent.mpr hev
  rw [execWord, execDecoded_of_errorOf he, beforeRaise_of_errorOf he (by decide)]
  rfl

/-- The read-only and reserved addresses of a write (R104, R121). -/
theorem three_le_toNat_iff {a : CsrAddr} : 3 ≤ a.toNat ↔ a ≠ 0x00#5 ∧ a ≠ 0x01#5 ∧ a ≠ 0x02#5 := by
  revert a; decide

/-- Settles O23: the three events are those in which a word raises `ILLCMD`, and only the read answers before it. -/
theorem illegalCommandErrorsExactly : Obligations.IllegalCommandErrorsExactly := by
  unfold Obligations.IllegalCommandErrorsExactly
  intro w s undecodable badWrite badRead
  have hundecodable : ¬ DecodesToCommand (decode w) ↔ undecodable := by
    simp only [DecodesToCommand, undecodable]
    grind
  have hevent : errorOf (decode w) s = some .illcmd ↔ undecodable ∨ badWrite ∨ badRead := by
    rw [errorOf_eq_illcmd_iff, hundecodable]
    simp only [three_le_toNat_iff, badWrite, badRead]
  refine ⟨?_, ?_, fun t h hs ht => hevent.mp (errorOf_of_flag_set h hs ht)⟩
  · rintro (hbad | ⟨hp, a, v, hd, ha⟩)
    · exact execDecoded_of_not_command s (hundecodable.mpr hbad)
    · rw [execWord, hd]
      exact exec_wrcsr_readOnly hp (three_le_toNat_iff.mpr ha)
  · rintro ⟨a, hd, ha⟩
    rw [execWord, hd]
    exact exec_rdcsr_reserved ha

/-- The encodings `START` refuses (R55, R122). -/
theorem not_encSupported_iff {enc : BitVec 2} : ¬ encSupported enc = true ↔ enc = 2#2 ∨ enc = 3#2 := by
  revert enc; decide

/-- Settles O24: the one event is the one in which a word raises `CFGERR`. -/
theorem configurationErrorsExactly : Obligations.ConfigurationErrorsExactly := by
  unfold Obligations.ConfigurationErrorsExactly
  intro w s event
  have hevent : errorOf (decode w) s = some .cfgerr ↔ event := by
    rw [errorOf_eq_cfgerr_iff, not_encSupported_iff]
  refine ⟨fun hev => ?_, fun t h hs ht => hevent.mp (errorOf_of_flag_set h hs ht)⟩
  have he := hevent.mpr hev
  rw [execWord, execDecoded_of_errorOf he, beforeRaise_of_errorOf he (by decide)]
  rfl

/-- Three bits as the values of the three flags. -/
def flagsOf (c q l : Bool) : ErrFlag → Bool
  | .cfgerr => c
  | .seqerr => q
  | .illcmd => l

/-- Settles O25: a word but `RESET` only adds to the flags, and a command from a state with other flags differs in the
flags alone. -/
theorem onlyResetClearsErrorFlags : Obligations.OnlyResetClearsErrorFlags := by
  unfold Obligations.OnlyResetClearsErrorFlags
  refine ⟨fun w s t h => ⟨fun hreset => ?_, fun hreset => ?_⟩, fun i s t c q l hstatus h => ?_⟩
  · have hsticky : ∀ f, s.flag f = true → t.flag f = true := fun f hf => by
      rw [flag_execDecoded h hreset, hf, Bool.true_or]
    exact ⟨hsticky .cfgerr, hsticky .seqerr, hsticky .illcmd⟩
  · rw [execWord, hreset] at h
    cases h
    exact ⟨rfl, rfl, rfl⟩
  · obtain ⟨g, hg⟩ := exec_withFlags (flagsOf c q l) h hstatus
    exact ⟨g .cfgerr, g .seqerr, g .illcmd, hg⟩

end Sys2Proof.Machine

namespace Sys2Proof.Machine

/-! The configuration over a session (R142): what a word leaves of it in `RUN`, and what opens a session. -/

/-- The registers a `WRCSR` can write (R21 to R23, R104). -/
def State.config (s : State) : BitVec 2 × Word × Word := (s.enc, s.thresh, s.range)

theorem State.config_eq_iff {s t : State} :
    t.config = s.config ↔ t.enc = s.enc ∧ t.thresh = s.thresh ∧ t.range = s.range := by
  simp [State.config]

section Config
variable (s : State)

@[simp] theorem State.config_raise (e : ErrFlag) : (s.raise e).config = s.config := by simp [State.config]

@[simp] theorem State.config_openSession : s.openSession.config = s.config := rfl

theorem State.config_acceptSample {F : Type} (A : Format F) (b : Byte) :
    (s.acceptSample A b).config = s.config := by
  by_cases hc : s.cnt.val = 239
  · rw [acceptSample_last A b (Fin.ext hc)]
    rfl
  · rw [acceptSample_next A b (by omega)]
    rfl

end Config

section Session
variable {i : Instr} {s t : State}

/-- In `RUN` a command but `RESET` is refused or writes to the session's registers alone. -/
theorem exec_config_of_run (h : exec i s = .next t) (hp : s.phase = .run) (hreset : i ≠ .reset) :
    t.config = s.config := by
  cases i with
  | reset => exact absurd rfl hreset
  | nop | reservedOp6 x => cases h; rfl
  | start => rw [exec, execStart_run hp] at h; cases h; rfl
  | wrcsr a v => rw [exec, execWrcsr_run a v hp] at h; cases h; rfl
  | eos => rw [exec, execEos_run hp] at h; cases h; rfl
  | sample b => rw [exec, execSample_run b hp] at h; cases h; exact s.config_acceptSample fmt b
  | rdcsr a =>
    rcases hc : Csr.ofAddr a with _ | c
    · rw [exec, execRdcsr_none hc] at h; cases h; rfl
    · rw [exec, execRdcsr_some hc] at h; cases h; rfl

/-- In `IDLE` a command but `START` leaves the phase. -/
theorem exec_phase_of_idle (h : exec i s = .next t) (hp : s.phase = .idle) (hstart : i ≠ .start) :
    t.phase = .idle := by
  cases i with
  | start => exact absurd rfl hstart
  | reset => cases h; rfl
  | nop | reservedOp6 x => cases h; exact hp
  | sample b => rw [exec, execSample_idle b hp] at h; cases h; exact hp
  | eos => rw [exec, execEos_idle hp] at h; cases h; exact hp
  | wrcsr a v => rw [exec, execWrcsr_idle a v hp] at h; cases h; split_ifs <;> simp [hp]
  | rdcsr a =>
    rcases hc : Csr.ofAddr a with _ | c
    · rw [exec, execRdcsr_none hc] at h; cases h; exact hp
    · rw [exec, execRdcsr_some hc] at h; cases h; exact hp

/-- A command that takes the machine from `IDLE` to `RUN` is an accepted `START` (R55). -/
theorem exec_opens_session (h : exec i s = .next t) (hp : s.phase = .idle) (ht : t.phase = .run) :
    i = .start ∧ t = s.openSession := by
  have hi : i = .start := by
    by_contra hstart
    simp [exec_phase_of_idle h hp hstart] at ht
  subst hi
  rw [exec, execStart_idle hp] at h
  cases h
  split_ifs at ht ⊢ with henc
  · exact ⟨rfl, rfl⟩
  · simp [hp] at ht

end Session

/-- Settles O26: in `RUN` only `RESET` moves the configuration, and only an accepted `START` leaves `IDLE`. -/
theorem configurationFrozenInSession : Obligations.ConfigurationFrozenInSession := by
  unfold Obligations.ConfigurationFrozenInSession
  simp only [← State.config_eq_iff]
  intro w s t h
  rcases execWord_cases h with ⟨i, hd, hi⟩ | ⟨⟨r, hd⟩, rfl⟩
  · simp only [hd, Decoded.instr.injEq]
    refine ⟨fun hp => ⟨?_, ?_⟩, fun hp ht => ?_⟩
    · rintro ⟨a, v, rfl⟩
      exact Host.Outcome.next.inj (hi.symm.trans (execWrcsr_run a v hp))
    · by_cases hreset : i = .reset
      · subst hreset
        cases hi
        exact .inr ⟨rfl, rfl⟩
      · exact .inl (exec_config_of_run hi hp hreset)
    · obtain ⟨hstart, rfl⟩ := exec_opens_session hi hp ht
      exact ⟨hstart, rfl, rfl, s.config_openSession⟩
  · refine ⟨fun _ => ⟨by simp [hd], .inl (s.config_raise .illcmd)⟩, fun hp ht => ?_⟩
    simp [hp] at ht

end Sys2Proof.Machine

namespace Sys2Proof

/-! The encoder, the decoder and the table of R42 agree (R40 to R43, R50). -/

@[simp] theorem decode_packFields (op : BitVec 3) (a : CsrAddr) (d : Word) :
    decode (packFields op a d) = decodeFields op a d := by
  simp [decode]

/-- The word of the reserved opcode as three fields, its 37 other bits split at bit 32. -/
theorem encode_reservedOp6 (x : BitVec 37) :
    encode (.reservedOp6 x) = packFields 6#3 (x.extractLsb' 32 5) (x.extractLsb' 0 32) := by
  rw [reserved_pack, reserved_split]
  rfl

/-- Settles O2: the fields of a packed word are the ones put in, and the opcode picks the instruction's own arm. -/
theorem decodingAnEncodedCommand : Obligations.DecodingAnEncodedCommand := by
  unfold Obligations.DecodingAnEncodedCommand
  intro i
  cases i with
  | nop | eos | start | reset | wrcsr a v | rdcsr a => simp [encode, decodeFields]
  | sample b => simp only [encode, decode_packFields, decodeFields, sampleHigh_append, sampleByte_append]; simp
  | reservedOp6 x => simp only [encode_reservedOp6, decode_packFields, decodeFields, reserved_split]; simp

/-- An arm of the decoder with required-zero fields answers its command only where they are 0. -/
theorem ite_illegal_eq_instr_iff {p : Prop} [Decidable p] {i j : Instr} {r : IllegalWord} :
    (if p then Decoded.instr j else .illegal r) = .instr i ↔ p ∧ j = i := by
  split_ifs with hp <;> simp [hp]

/-- Encoding what three fields decode to packs the same fields: those the arm takes as operands, and 0 in the others. -/
theorem encode_of_decodeFields {op : BitVec 3} {a : CsrAddr} {d : Word} {i : Instr}
    (h : decodeFields op a d = .instr i) : encode i = packFields op a d := by
  rcases Machine.opcode_cases op with rfl | rfl | rfl | rfl | rfl | rfl | rfl | rfl
  case inr.inl =>
    obtain ⟨⟨rfl, hhigh⟩, rfl⟩ : (a = 0 ∧ sampleHigh d = 0) ∧ Instr.sample (sampleByte d) = i := by
      simpa [decodeFields, ite_illegal_eq_instr_iff] using h
    rw [encode, show (0#24 : BitVec 24) = sampleHigh d from hhigh.symm, sample_split]
    rfl
  case inr.inr.inr.inr.inr.inr.inl =>
    obtain rfl : Instr.reservedOp6 (a ++ d) = i := by simpa [decodeFields] using h
    rw [reserved_pack]
    rfl
  all_goals grind [decodeFields, encode]

/-- Settles O3: a word is its fields packed. -/
theorem encodingADecodedWord : Obligations.EncodingADecodedWord := by
  unfold Obligations.EncodingADecodedWord
  intro w i h
  rw [encode_of_decodeFields h, pack_fields]

/-- A word stands for an instruction exactly when it is the instruction's own word. -/
theorem decode_eq_instr_iff {w : CmdWord} {i : Instr} : decode w = .instr i ↔ encode i = w :=
  ⟨encodingADecodedWord w i, fun h => h ▸ decodingAnEncodedCommand i⟩

theorem packFields_inj {op op' : BitVec 3} {a a' : CsrAddr} {d d' : Word} :
    packFields op a d = packFields op' a' d' ↔ op = op' ∧ a = a' ∧ d = d' := by
  refine ⟨fun h => ⟨?_, ?_, ?_⟩, by rintro ⟨rfl, rfl, rfl⟩; rfl⟩
  · simpa using congrArg fieldOp h
  · simpa using congrArg fieldA h
  · simpa using congrArg fieldD h

/-- A match under a mask, read field by field (R41, R42). -/
theorem and_packFields_eq_iff {w : CmdWord} {mo po : BitVec 3} {ma pa : CsrAddr} {md pd : Word} :
    w &&& packFields mo ma md = packFields po pa pd ↔
      fieldOp w &&& mo = po ∧ fieldA w &&& ma = pa ∧ fieldD w &&& md = pd := by
  conv_lhs => rw [← pack_fields w]
  rw [← packFields_inj, packFields, packFields, BitVec.and_append, BitVec.and_append]
  rfl

/-- The mask of `SAMPLE` looks at the 24 bits above the byte (R42). -/
theorem and_sampleMask_eq_zero_iff {d : Word} :
    d &&& (BitVec.allOnes 24 ++ 0#8) = 0#24 ++ 0#8 ↔ sampleHigh d = 0#24 := by
  conv_lhs => rw [← sample_split d, BitVec.and_append, BitVec.and_allOnes, BitVec.and_zero, BitVec.append_left_inj]

/-! The three forms a row takes: the opcode alone, every bit, and every bit but an operand's. -/

theorem and_mask_op_iff {w : CmdWord} {op : BitVec 3} :
    w &&& packFields (BitVec.allOnes 3) 0 0 = packFields op 0 0 ↔ fieldOp w = op := by
  rw [and_packFields_eq_iff, BitVec.and_allOnes]
  simp

theorem encode_eq_iff {i : Instr} {w : CmdWord} {op : BitVec 3} {a : CsrAddr} {d : Word}
    (h : encode i = packFields op a d) : encode i = w ↔ fieldOp w = op ∧ fieldA w = a ∧ fieldD w = d := by
  rw [h, ← pack_fields w, packFields_inj, pack_fields]
  grind

theorem exists_encode_wrcsr_iff {w : CmdWord} : (∃ a v, encode (.wrcsr a v) = w) ↔ fieldOp w = 4#3 := by
  simp only [encode_eq_iff (i := .wrcsr _ _) rfl]
  simp

theorem exists_encode_rdcsr_iff {w : CmdWord} :
    (∃ a, encode (.rdcsr a) = w) ↔ fieldOp w = 5#3 ∧ fieldD w = 0 := by
  simp only [encode_eq_iff (i := .rdcsr _) rfl]
  simp

theorem exists_encode_sample_iff {w : CmdWord} :
    (∃ b, encode (.sample b) = w) ↔ fieldOp w = 1#3 ∧ fieldA w = 0 ∧ sampleHigh (fieldD w) = 0#24 := by
  simp only [encode_eq_iff (i := .sample _) rfl]
  refine ⟨?_, fun ⟨hop, ha, hhigh⟩ => ⟨sampleByte (fieldD w), hop, ha, by rw [← hhigh, sample_split]⟩⟩
  rintro ⟨b, hop, ha, hd⟩
  exact ⟨hop, ha, by rw [hd, sampleHigh_append]⟩

theorem exists_encode_reservedOp6_iff {w : CmdWord} : (∃ x, encode (.reservedOp6 x) = w) ↔ fieldOp w = 6#3 := by
  refine ⟨?_, fun h => ⟨fieldA w ++ fieldD w, ?_⟩⟩
  · rintro ⟨x, rfl⟩
    simp [encode_reservedOp6]
  · rw [encode, ← reserved_pack, ← h, pack_fields]

theorem Instr.exists_iff {P : Instr → Prop} :
    (∃ i, P i) ↔ P .nop ∨ (∃ b, P (.sample b)) ∨ P .eos ∨ P .start ∨ (∃ a v, P (.wrcsr a v)) ∨ (∃ a, P (.rdcsr a)) ∨
      P .reset ∨ ∃ x, P (.reservedOp6 x) := by
  refine ⟨?_, by grind⟩
  rintro ⟨i, hi⟩
  cases i <;> grind

/-- Every row of R42 selects its own command, by the fields its mask looks at. -/
theorem match_row_iff (w : CmdWord) :
    ∀ r ∈ opcodeRows, w &&& r.mask = r.pattern ↔ ∃ i, decode w = .instr i ∧ i.mnemonic = r.mnemonic := by
  have hfixed {i : Instr} {p : CmdWord} (hp : p = encode i) : w &&& 0xFFFFFFFFFF#40 = p ↔ encode i = w := by
    rw [hp, show 0xFFFFFFFFFF#40 = BitVec.allOnes 40 from rfl, BitVec.and_allOnes, eq_comm]
  have hsample : w &&& 0xFFFFFFFF00#40 = 0x2000000000#40 ↔ ∃ b, encode (.sample b) = w := by
    rw [exists_encode_sample_iff, ← and_sampleMask_eq_zero_iff, ← BitVec.and_allOnes (x := fieldOp w),
      ← BitVec.and_allOnes (x := fieldA w), ← and_packFields_eq_iff]
    rfl
  have hrdcsr : w &&& 0xE0FFFFFFFF#40 = 0xA000000000#40 ↔ ∃ a, encode (.rdcsr a) = w := by
    have hfields := and_packFields_eq_iff (w := w) (mo := BitVec.allOnes 3) (po := 5#3) (ma := 0#5) (pa := 0#5)
      (md := BitVec.allOnes 32) (pd := 0#32)
    simp only [BitVec.and_allOnes, BitVec.and_zero, true_and] at hfields
    exact hfields.trans exists_encode_rdcsr_iff.symm
  have hwrcsr : w &&& 0xE000000000#40 = 0x8000000000#40 ↔ ∃ a v, encode (.wrcsr a v) = w :=
    and_mask_op_iff.trans exists_encode_wrcsr_iff.symm
  have hreserved : w &&& 0xE000000000#40 = 0xC000000000#40 ↔ ∃ x, encode (.reservedOp6 x) = w :=
    and_mask_op_iff.trans exists_encode_reservedOp6_iff.symm
  simpa [opcodeRows, Instr.exists_iff, Instr.mnemonic, decode_eq_instr_iff] using
    And.intro (hfixed (i := .nop) (p := 0#40) rfl) <| And.intro hsample <|
      And.intro (hfixed (i := .eos) (p := 0x4000000000#40) rfl) <|
      And.intro (hfixed (i := .start) (p := 0x6000000000#40) rfl) <| And.intro hwrcsr <| And.intro hrdcsr <|
      And.intro (hfixed (i := .reset) (p := 0xE000000000#40) rfl) hreserved

/-- The mnemonic names the row. -/
theorem opcodeRow_eq_of_mnemonic : ∀ r ∈ opcodeRows, ∀ r' ∈ opcodeRows, r.mnemonic = r'.mnemonic → r = r' := by
  decide

/-- Settles O4: a word that matches two rows decodes to one command, whose mnemonic is that of both. -/
theorem tableRowsSelectTheirCommand : Obligations.TableRowsSelectTheirCommand := by
  unfold Obligations.TableRowsSelectTheirCommand
  refine ⟨fun r hr w => match_row_iff w r hr, fun r hr r' hr' w h h' => ?_⟩
  obtain ⟨i, hi, hmn⟩ := (match_row_iff w r hr).mp h
  obtain ⟨i', hi', hmn'⟩ := (match_row_iff w r' hr').mp h'
  obtain rfl : i = i' := Decoded.instr.inj (hi.symm.trans hi')
  exact opcodeRow_eq_of_mnemonic r hr r' hr' (hmn.symm.trans hmn')

end Sys2Proof

namespace Sys2Proof.Machine

/-! What an accepted sample does to the sequencing state and the buffer (R56), in both its cases, and what a step does
with the pending move (R9, R137). -/

section AcceptSample
variable {F : Type} (A : Format F) (s : State) (b : Byte)

@[simp] theorem acceptSample_phase : (s.acceptSample A b).phase = s.phase := by
  unfold State.acceptSample; split <;> rfl

@[simp] theorem acceptSample_fb : (s.acceptSample A b).fb = s.fb.write s.cnt.val b := by
  unfold State.acceptSample; split <;> rfl

/-- `CNT` counts up and returns to 0 after 239. -/
@[simp] theorem acceptSample_cnt : (s.acceptSample A b).cnt = cntSucc s.cnt := by
  unfold State.acceptSample
  split
  · next h => simp [cntSucc, h, State.frameDone]
  · rfl

theorem cntSucc_last {c : Fin 240} (h : c.val = 239) : cntSucc c = 0 := by simp [cntSucc, h]

end AcceptSample

/-! ### Everything a word can do -/

/-- The effects a decoded word can have: the accepted commands, and the one flag of a refused word (R118). -/
inductive Effect : Decoded → State → State → Prop
  | nop {s : State} : Effect (.instr .nop) s s
  | reset {s : State} : Effect (.instr .reset) s s.resetRegisters
  | opened {s : State} (hp : s.phase = .idle) (henc : encSupported s.enc = true) :
    Effect (.instr .start) s s.openSession
  | sampled {s : State} (b : Byte) (hp : s.phase = .run) : Effect (.instr (.sample b)) s (s.acceptSample fmt b)
  | closed {s : State} (hp : s.phase = .run) : Effect (.instr .eos) s (s.closeSession.appendOut endWord)
  | wroteCfg {s : State} {a : CsrAddr} (v : Word) (hp : s.phase = .idle) (ha : Csr.ofAddr a = some .cfg) :
    Effect (.instr (.wrcsr a v)) s (s.writeCfg v)
  | wroteThresh {s : State} {a : CsrAddr} (v : Word) (hp : s.phase = .idle) (ha : Csr.ofAddr a = some .thresh) :
    Effect (.instr (.wrcsr a v)) s (s.writeThresh v)
  | wroteRange {s : State} {a : CsrAddr} (v : Word) (hp : s.phase = .idle) (ha : Csr.ofAddr a = some .range) :
    Effect (.instr (.wrcsr a v)) s (s.writeRange v)
  | answered {s : State} {a : CsrAddr} {c : Csr} (hc : Csr.ofAddr a = some c) :
    Effect (.instr (.rdcsr a)) s (s.appendRsp (s.readCsr c))
  | refused {x : Decoded} {s : State} {e : ErrFlag} (he : errorOf x s = some e) :
    Effect x s ((s.beforeRaise x).raise e)

section Effect
variable {x : Decoded} {i : Instr} {s t : State}

theorem Effect.execDecoded (h : Effect x s t) : execDecoded x s = .next t := by
  cases h with
  | nop | reset => rfl
  | opened hp henc => exact (execStart_idle hp).trans (congrArg _ (if_pos henc))
  | sampled b hp => exact execSample_run b hp
  | closed hp => exact execEos_run hp
  | wroteCfg v hp ha | wroteThresh v hp ha | wroteRange v hp ha =>
    refine (execWrcsr_idle _ v hp).trans ?_
    rw [ha]
    rfl
  | answered hc => exact execRdcsr_some hc
  | refused he => exact execDecoded_of_errorOf he

/-- A command that is not refused has an effect of its own. -/
theorem exists_effect_of_accepted (he : errorOf (.instr i) s = none) : ∃ t, Effect (.instr i) s t := by
  cases i with
  | nop => exact ⟨_, .nop⟩
  | reset => exact ⟨_, .reset⟩
  | reservedOp6 y => simp [errorOf] at he
  | sample b => exact ⟨_, .sampled b (by simpa [errorOf, Phase.ne_idle_iff] using he)⟩
  | eos => exact ⟨_, .closed (by simpa [errorOf, Phase.ne_idle_iff] using he)⟩
  | start =>
    have hp : s.phase = .idle := Phase.ne_run_iff.mp fun hp => by simp [errorOf, hp] at he
    exact ⟨_, .opened hp (by simpa [errorOf, hp] using he)⟩
  | wrcsr a v =>
    have hp : s.phase = .idle := Phase.ne_run_iff.mp fun hp => by simp [errorOf, hp] at he
    have ha : a.toNat < 3 := by simpa [errorOf, hp] using he
    rcases Csr.ofAddr_of_lt_three ha with hc | hc | hc
    · exact ⟨_, .wroteCfg v hp hc⟩
    · exact ⟨_, .wroteThresh v hp hc⟩
    · exact ⟨_, .wroteRange v hp hc⟩
  | rdcsr a =>
    have ha : ¬ (a = 0x07#5 ∨ 26 ≤ a.toNat) := by simpa [errorOf] using he
    obtain ⟨c, hc⟩ := Option.ne_none_iff_exists'.mp (mt Csr.ofAddr_eq_none_iff.mp ha)
    exact ⟨_, .answered hc⟩

/-- What a decoded word does is one of the effects listed, and each of them is what some word does. -/
theorem execDecoded_iff_effect : execDecoded x s = .next t ↔ Effect x s t := by
  refine ⟨fun h => ?_, Effect.execDecoded⟩
  have hex : ∃ u, Effect x s u := by
    rcases he : errorOf x s with _ | e
    · rcases x with i | r
      · exact exists_effect_of_accepted he
      · cases he
    · exact ⟨_, .refused he⟩
  obtain ⟨u, hu⟩ := hex
  obtain rfl : u = t := Host.Outcome.next.inj (hu.execDecoded.symm.trans h)
  exact hu

@[simp] theorem beforeRaise_phase : (s.beforeRaise x).phase = s.phase := by unfold State.beforeRaise; split <;> rfl

@[simp] theorem beforeRaise_cnt : (s.beforeRaise x).cnt = s.cnt := by unfold State.beforeRaise; split <;> rfl

@[simp] theorem beforeRaise_fb : (s.beforeRaise x).fb = s.fb := by unfold State.beforeRaise; split <;> rfl

end Effect

/-- What a step can do: hold the state, execute the oldest word, or reset. -/
theorem step_cases {s t : State} (h : step s = .next t) :
    (s.inputs = [] ∧ t = s) ∨ (∃ w l, s.inputs = .command w :: l ∧ execWord w (s.setInputs l) = .next t) ∨
      ∃ l, s.inputs = .resetInput :: l ∧ t = (s.setInputs l).resetRegisters := by
  rcases hin : s.inputs with _ | ⟨⟨w⟩ | _, l⟩
  · exact .inl ⟨rfl, (Host.Outcome.next.inj ((takeMove_nil hin).symm.trans h)).symm⟩
  · exact .inr (.inl ⟨w, l, rfl, (takeMove_command hin).symm.trans h⟩)
  · exact .inr (.inr ⟨l, rfl, (Host.Outcome.next.inj ((takeMove_reset hin).symm.trans h)).symm⟩)

/-! ### The invariant, operation by operation -/

/-- Settles O10, field by field. -/
theorem resetMeetsTheInvariant : Obligations.ResetMeetsTheInvariant where
  fbWf := Memory.wf_nil
  encOk := nofun
  cntIdle := fun _ => rfl
  eosfIdle := nofun
  symvFrames := fun _ => ⟨rfl, rfl⟩
  symOfOn := ⟨false, by rw [State.reset, decideOnSet_zero]⟩
  outLegal := nofun

section Inv
variable {s : State} (h : s.Inv)
include h

theorem State.Inv.raise (e : ErrFlag) : (s.raise e).Inv := by
  cases e <;> exact { h with }

theorem State.Inv.setInputs (l : List HostMove) : (s.setInputs l).Inv := { h with }

theorem State.Inv.appendRsp (w : Word) : (s.appendRsp w).Inv := { h with }

theorem State.Inv.writeThresh (v : Word) : (s.writeThresh v).Inv := { h with }

theorem State.Inv.writeRange (v : Word) : (s.writeRange v).Inv := { h with }

theorem State.Inv.resetRegisters : s.resetRegisters.Inv :=
  { resetMeetsTheInvariant with fbWf := h.fbWf, outLegal := h.outLegal }

/-- Outside a session any encoding may be written. -/
theorem State.Inv.writeCfg (hp : s.phase = .idle) (v : Word) : (s.writeCfg v).Inv :=
  { h with encOk := by simp [hp] }

theorem State.Inv.openSession (henc : encSupported s.enc = true) : s.openSession.Inv :=
  { h with
    encOk := fun _ => henc, cntIdle := nofun, eosfIdle := fun _ => rfl, symvFrames := fun _ => ⟨rfl, rfl⟩ }

theorem State.Inv.appendOut {w : OutWord} (hw : LegalOutWord w) : (s.appendOut w).Inv :=
  { h with
    outLegal := fun x hx => by
      rcases List.mem_append.mp hx with hx | hx
      · exact h.outLegal x hx
      · exact List.mem_singleton.mp hx ▸ hw }

theorem State.Inv.closeSession : s.closeSession.Inv :=
  { h with encOk := nofun, cntIdle := fun _ => rfl, eosfIdle := nofun }

/-- A stored byte keeps the canonical form, and `CNT` may take any value in a session. -/
theorem State.Inv.storeByte (hp : s.phase = .run) (i c : Fin 240) (b : Byte) : ((s.fbWrite i b).setCnt c).Inv :=
  { h with fbWf := State.wf_fbWrite h.fbWf i b, cntIdle := by simp [hp] }

/-- A completed frame shows the symbol of its own on-set (R57). -/
theorem State.Inv.frameDone {F : Type} (A : Format F) : (s.frameDone A).Inv :=
  { h.appendOut (w := symbolWord _) (.inr ⟨_, rfl⟩) with symvFrames := nofun, symOfOn := verdictOn_sym A s _ }

theorem State.Inv.acceptSample {F : Type} (A : Format F) (hp : s.phase = .run) (b : Byte) :
    (s.acceptSample A b).Inv := by
  unfold State.acceptSample
  split
  · exact (h.storeByte hp _ _ b).frameDone A
  · exact h.storeByte hp _ _ b

theorem State.Inv.beforeRaise (x : Decoded) : (s.beforeRaise x).Inv := by
  unfold State.beforeRaise
  split
  · exact h.appendRsp _
  · exact h

/-- Every effect a word can have keeps the invariant. -/
theorem State.Inv.effect {x : Decoded} {t : State} (ht : Effect x s t) : t.Inv := by
  cases ht with
  | nop => exact h
  | reset => exact h.resetRegisters
  | opened hp henc => exact h.openSession henc
  | sampled b hp => exact h.acceptSample fmt hp b
  | closed hp => exact h.closeSession.appendOut (.inl rfl)
  | wroteCfg v hp ha => exact h.writeCfg hp v
  | wroteThresh v hp ha => exact h.writeThresh v
  | wroteRange v hp ha => exact h.writeRange v
  | answered hc => exact h.appendRsp _
  | refused he => exact (h.beforeRaise x).raise _

end Inv

/-- Settles O11: taking the move leaves the invariant, and each thing a step can do keeps it. -/
theorem stepKeepsTheInvariant : Obligations.StepKeepsTheInvariant := by
  unfold Obligations.StepKeepsTheInvariant
  intro s t h ht
  rcases step_cases ht with ⟨-, rfl⟩ | ⟨w, l, -, hw⟩ | ⟨l, -, rfl⟩
  · exact h
  · exact (h.setInputs l).effect (execDecoded_iff_effect.mp hw)
  · exact (h.setInputs l).resetRegisters

end Sys2Proof.Machine

namespace Sys2Proof.Machine

/-! The frame buffer under the commands (R31, R154): only an accepted `SAMPLE` writes it, only a completed frame reads
it, and so what the current frame has not filled cannot be observed (R156). -/

/-! ### The same state with another buffer -/

/-- The state with another buffer, and nothing else changed. -/
def State.withFb (s : State) (m : Memory) : State := { s with fb := m }

section WithFb
variable {F : Type} (A : Format F) {x : Decoded} {s t : State} {m : Memory}

/-- A byte written at the last address makes a frame that is the same for all buffers with the same bytes below. -/
theorem Memory.frame_write_last {m n : Memory} (hm : m.wf) (hn : n.wf) (h : ∀ i < 239, m.read i = n.read i) (b : Byte) :
    (m.write 239 b).frame = (n.write 239 b).frame := by
  refine Memory.frame_congr fun i hi => ?_
  rw [Memory.read_write hm, Memory.read_write hn]
  split_ifs with hlast
  · rfl
  · exact h i (by simp only [Config.frameLength] at hi; omega)

/-- `FRAME_DONE` reads the frame alone of the buffer (R57). -/
theorem State.frameDone_withFb (hframe : m.frame = s.fb.frame) :
    (s.withFb m).frameDone A = (s.frameDone A).withFb m := by
  have hpowers : (s.withFb m).framePowers A = s.framePowers A := framePowers_congr A hframe rfl
  have hverdict : ∀ p, (s.withFb m).verdictOn A p = s.verdictOn A p := fun p => verdictOn_congr A p rfl rfl rfl
  have hbits : ∀ p, (s.withFb m).powerBits A p = s.powerBits A p := fun p => powerBits_congr A p rfl
  rw [State.frameDone, hpowers, hverdict, hbits]
  rfl

/-- A sample is stored in either buffer, and where it completes a frame both frames give one result. -/
theorem acceptSample_withFb (b : Byte)
    (hframe : s.cnt.val = 239 → (m.write 239 b).frame = (s.fb.write 239 b).frame) :
    (s.withFb m).acceptSample A b = (s.acceptSample A b).withFb (m.write s.cnt.val b) := by
  by_cases hc : s.cnt.val = 239
  · have hframe' : (m.write s.cnt.val b).frame = ((s.fbWrite s.cnt b).setCnt 0).fb.frame := by
      simpa [hc] using hframe hc
    rw [acceptSample_last A b (Fin.ext hc), acceptSample_last A b (s := s.withFb m) (Fin.ext hc),
      ← State.frameDone_withFb A hframe']
    rfl
  · have hlt : s.cnt.val < 239 := by omega
    rw [acceptSample_next A b hlt, acceptSample_next A b (s := s.withFb m) hlt]
    rfl

theorem errorOf_withFb (m : Memory) : errorOf x (s.withFb m) = errorOf x s := by
  rcases x with i | r
  · cases i <;> rfl
  · rfl

theorem raise_beforeRaise_withFb (x : Decoded) (s : State) (e : ErrFlag) (m : Memory) :
    ((s.withFb m).beforeRaise x).raise e = ((s.beforeRaise x).raise e).withFb m := by
  unfold State.beforeRaise
  split <;> cases e <;> rfl

/-- Every word but an accepted `SAMPLE` leaves the buffer and does not look at it (R154). -/
theorem Effect.withFb (h : Effect x s t) (hx : ¬ (s.phase = .run ∧ ∃ b, x = .instr (.sample b))) :
    t.fb = s.fb ∧ ∀ m, Effect x (s.withFb m) (t.withFb m) := by
  cases h with
  | nop => exact ⟨rfl, fun _ => .nop⟩
  | reset => exact ⟨rfl, fun _ => .reset⟩
  | opened hp henc => exact ⟨rfl, fun _ => .opened hp henc⟩
  | sampled b hp => exact absurd ⟨hp, b, rfl⟩ hx
  | closed hp => exact ⟨rfl, fun _ => .closed hp⟩
  | wroteCfg v hp ha => exact ⟨rfl, fun _ => .wroteCfg v hp ha⟩
  | wroteThresh v hp ha => exact ⟨rfl, fun _ => .wroteThresh v hp ha⟩
  | wroteRange v hp ha => exact ⟨rfl, fun _ => .wroteRange v hp ha⟩
  | @answered _ _ c hc =>
    refine ⟨rfl, fun m => ?_⟩
    have hread : (s.withFb m).readCsr c = s.readCsr c := by cases c <;> rfl
    exact hread ▸ Effect.answered (s := s.withFb m) hc
  | refused he =>
    refine ⟨by simp, fun m => ?_⟩
    rw [← raise_beforeRaise_withFb]
    exact .refused ((errorOf_withFb m).trans he)

end WithFb

/-- Settles O31: an accepted `SAMPLE` is one write at `CNT`, and every other word leaves the buffer. -/
theorem onlySampleWritesTheBuffer : Obligations.OnlySampleWritesTheBuffer := by
  unfold Obligations.OnlySampleWritesTheBuffer
  intro w s t hwf h
  refine ⟨fun b hd hp => ?_, fun hother a => by rw [((execDecoded_iff_effect.mp h).withFb hother).1]⟩
  rw [execWord, hd] at h
  obtain rfl : s.acceptSample fmt b = t := Host.Outcome.next.inj ((execSample_run b hp).symm.trans h)
  rw [acceptSample_fb]
  exact ⟨by rw [Memory.read_write hwf, if_pos rfl], fun a ha => by rw [Memory.read_write hwf, if_neg ha]⟩

/-! ### `PHASE` and `CNT` -/

/-- The words that may move `PHASE` or `CNT` (R11). -/
def MovesSequencing (x : Decoded) : Prop :=
  x = .instr .reset ∨ x = .instr .start ∨ (∃ b, x = .instr (.sample b)) ∨ x = .instr .eos

theorem cntSucc_cases (c : Fin 240) : cntSucc c = 0 ∨ (cntSucc c).val = c.val + 1 := by
  unfold cntSucc; split <;> simp

section Sequencing
variable {x : Decoded} {s t : State}

theorem Effect.sequencing_other (h : Effect x s t) (hx : ¬ MovesSequencing x) : t.phase = s.phase ∧ t.cnt = s.cnt := by
  cases h with
  | nop | wroteCfg | wroteThresh | wroteRange | answered => exact ⟨rfl, rfl⟩
  | refused he => simp
  | reset | opened | sampled | closed => simp [MovesSequencing] at hx

/-- `CNT` stays or is cleared, or an accepted sample counts it (R11, R152). -/
theorem Effect.cnt (h : Effect x s t) :
    t.cnt = s.cnt ∨ t.cnt = 0 ∨ (s.phase = .run ∧ ∃ b, x = .instr (.sample b)) ∧ t.cnt = cntSucc s.cnt := by
  cases h with
  | nop | wroteCfg | wroteThresh | wroteRange | answered => exact .inl rfl
  | refused he => simp
  | reset | opened | closed => exact .inr (.inl rfl)
  | sampled b hp => exact .inr (.inr ⟨⟨hp, b, rfl⟩, acceptSample_cnt ..⟩)

end Sequencing

/-- Settles O27: four commands move the sequencing state, and `CNT` has three ways to go. -/
theorem sequencingStateMovesOnlyByItsCommands : Obligations.SequencingStateMovesOnlyByItsCommands := by
  unfold Obligations.SequencingStateMovesOnlyByItsCommands
  intro w s t h
  have heff : Effect (decode w) s t := execDecoded_iff_effect.mp h
  refine ⟨fun hmoved => ?_, ?_⟩
  · by_contra hother
    obtain ⟨hphase, hcnt⟩ := heff.sequencing_other hother
    exact hmoved.elim (· hphase) (· hcnt)
  · rcases heff.cnt with hc | hc | ⟨-, hc⟩
    · exact .inl hc
    · exact .inr (.inl hc)
    · exact .inr (hc ▸ cntSucc_cases s.cnt)

/-! ### States that differ in the unfilled part of the buffer -/

/-- A relation that every step of a run keeps is kept by the run: the second run completes as the first does. -/
theorem runAll_simulation {α : Type} {run : α → State → Host.Outcome State Fault Refusal} {R : State → State → Prop}
    (hstep : ∀ x s t s', R s t → run x s = .next s' → ∃ t', run x t = .next t' ∧ R s' t') :
    ∀ (xs : List α) (s t s' : State), R s t → runAll run xs s = .next s' → ∃ t', runAll run xs t = .next t' ∧ R s' t'
  | [], s, t, s', hR, h => by
    obtain rfl : s = s' := Host.Outcome.next.inj h
    exact ⟨t, rfl, hR⟩
  | x :: xs, s, t, s', hR, h => by
    rcases hx : run x s with u | r | r
    · obtain ⟨v, hv, hR'⟩ := hstep x s t u hR hx
      rw [runAll_cons xs hx] at h
      rw [runAll_cons xs hv]
      exact runAll_simulation hstep xs u v s' hR' h
    · simp [runAll, hx] at h
    · simp [runAll, hx] at h

/-- Two canonical buffers in one state, the same below `CNT`. -/
structure State.Twin (s t : State) : Prop where
  wfLeft : s.fb.wf
  wfRight : t.fb.wf
  same : s.SameButUnfilled t

section Twin
variable {s t s' : State}

/-- A sample fills the next position in both buffers, so the twins agree on one byte more. -/
theorem State.Twin.acceptSample {F : Type} (A : Format F) (h : s.Twin t) (b : Byte) :
    (s.acceptSample A b).Twin (t.acceptSample A b) := by
  obtain ⟨hs, ht, heq, hread⟩ := h
  have hacc : t.acceptSample A b = (s.acceptSample A b).withFb (t.fb.write s.cnt.val b) := by
    have hframe (hc : s.cnt.val = 239) : (t.fb.write 239 b).frame = (s.fb.write 239 b).frame :=
      Memory.frame_write_last ht hs (fun i hi => (hread i (hc ▸ hi)).symm) b
    rw [heq]
    exact acceptSample_withFb A b hframe
  refine ⟨?_, ?_, ?_, ?_⟩
  · rw [acceptSample_fb]; exact Memory.wf_write b hs s.cnt.isLt
  · rw [hacc]; exact Memory.wf_write b ht s.cnt.isLt
  · rw [hacc]; rfl
  · intro i hi
    rw [acceptSample_cnt] at hi
    have hle : i ≤ s.cnt.val := by
      rcases cntSucc_cases s.cnt with hc | hc
      · simp [hc] at hi
      · omega
    rw [hacc, acceptSample_fb]
    change (s.fb.write s.cnt.val b).read i = (t.fb.write s.cnt.val b).read i
    rw [Memory.read_write hs, Memory.read_write ht]
    split_ifs with hi'
    · rfl
    · exact hread i (by omega)

theorem State.Twin.execWord {w : CmdWord} (h : s.Twin t) (hw : execWord w s = .next s') :
    ∃ t', Machine.execWord w t = .next t' ∧ s'.Twin t' := by
  by_cases hsample : s.phase = .run ∧ ∃ b, decode w = .instr (.sample b)
  · obtain ⟨hp, b, hd⟩ := hsample
    have hpt : t.phase = .run := by rw [h.same.1]; exact hp
    rw [Machine.execWord, hd] at hw ⊢
    obtain rfl : s.acceptSample fmt b = s' := Host.Outcome.next.inj ((execSample_run b hp).symm.trans hw)
    exact ⟨_, execSample_run b hpt, h.acceptSample fmt b⟩
  · obtain ⟨hs, ht, heq, hread⟩ := h
    have heff : Effect (decode w) s s' := execDecoded_iff_effect.mp hw
    obtain ⟨hfb, hother⟩ := heff.withFb hsample
    have hcnt : s'.cnt.val ≤ s.cnt.val := by
      rcases heff.cnt with hc | hc | ⟨hc, -⟩
      · simp [hc]
      · simp [hc]
      · exact absurd hc hsample
    rw [heq]
    exact ⟨_, (hother t.fb).execDecoded, hfb ▸ hs, ht, rfl, fun i hi => by rw [hfb]; exact hread i (by omega)⟩

end Twin

/-- Settles O35: twins stay twins over every word, and twins have the same streams. -/
theorem unfilledBufferIsUnobservable : Obligations.UnfilledBufferIsUnobservable := by
  unfold Obligations.UnfilledBufferIsUnobservable
  intro ws s t s' hs ht hsame h
  have hstep (w : CmdWord) (s t s' : State) (htwin : s.Twin t) (hw : execWord w s = .next s') := htwin.execWord hw
  obtain ⟨t', ht', htwin⟩ := runAll_simulation hstep ws s t s' ⟨hs, ht, hsame⟩ h
  have heq := htwin.same.1
  exact ⟨t', ht', by rw [heq], by rw [heq], htwin.same⟩

end Sys2Proof.Machine

namespace Sys2Proof.Machine

/-! The step (R9, R137, R155), the words written out from the table (R42), and the map of the registers (R26). -/

/-! ### The step -/

/-- No step faults and none is refused (R155). -/
theorem step_isNext (s : State) : ∃ t, step s = .next t := by
  rcases hin : s.inputs with _ | ⟨⟨w⟩ | _, l⟩
  · exact ⟨s, takeMove_nil hin⟩
  · obtain ⟨t, ht⟩ := execDecoded_isNext (decode w) (s.setInputs l)
    exact ⟨t, (takeMove_command hin).trans ht⟩
  · exact ⟨_, takeMove_reset hin⟩

/-- A stream with at most one word appended. -/
def AppendsAtMostOne {α : Type} (before after : List α) : Prop := ∃ ws, after = before ++ ws ∧ ws.length ≤ 1

theorem AppendsAtMostOne.refl {α : Type} (l : List α) : AppendsAtMostOne l l := ⟨[], by simp, by simp⟩

theorem AppendsAtMostOne.concat {α : Type} (l : List α) (x : α) : AppendsAtMostOne l (l ++ [x]) := ⟨[x], rfl, by simp⟩

section Exec
variable {i : Instr} {s t : State}

theorem exec_out_atMostOne (h : exec i s = .next t) : AppendsAtMostOne s.out t.out := by
  by_cases hi : AppendsToOut i s
  · obtain ⟨hp, ⟨⟨b, rfl⟩, hc⟩ | rfl⟩ := hi
    · rw [(exec_sample_frame_streams h hp hc).1]
      exact .concat ..
    · rw [(exec_eos_streams h).1, if_pos hp]
      exact .concat ..
  · rw [(exec_out_other h hi).1]
    exact .refl _

theorem exec_rsp_atMostOne (h : exec i s = .next t) : AppendsAtMostOne s.rsp t.rsp := by
  by_cases hi : ∃ a, i = .rdcsr a
  · obtain ⟨a, rfl⟩ := hi
    rw [(exec_rdcsr_streams h).2.2]
    exact .concat ..
  · rw [exec_rsp_other h (not_exists.mp hi)]
    exact .refl _

end Exec

/-- Settles O9: holding the state, `RESET` and an illegal word append nothing, a command one word at most. -/
theorem everyStepAnswersNext : Obligations.EveryStepAnswersNext := by
  unfold Obligations.EveryStepAnswersNext
  intro s
  obtain ⟨t, ht⟩ := step_isNext s
  have hstreams : AppendsAtMostOne s.out t.out ∧ AppendsAtMostOne s.rsp t.rsp := by
    rcases step_cases ht with ⟨-, rfl⟩ | ⟨w, l, -, hw⟩ | ⟨l, -, rfl⟩
    · exact ⟨.refl _, .refl _⟩
    · rcases execWord_cases hw with ⟨i, -, hi⟩ | ⟨-, rfl⟩
      · exact ⟨exec_out_atMostOne (s := s.setInputs l) hi, exec_rsp_atMostOne (s := s.setInputs l) hi⟩
      · exact ⟨.refl _, .refl _⟩
    · exact ⟨.refl _, .refl _⟩
  obtain ⟨⟨ow, hout, hlen⟩, ⟨rws, hrsp, hlen'⟩⟩ := hstreams
  exact ⟨t, ow, rws, ht, hout, hrsp, hlen, hlen'⟩

/-- Settles O6: the word is taken off the stream, then decoded. -/
theorem stepRunsThePresentedCommand : Obligations.StepRunsThePresentedCommand := by
  unfold Obligations.StepRunsThePresentedCommand
  intro s w rest hin
  have hstep : step s = execDecoded (decode w) (s.setInputs rest) := takeMove_command hin
  exact ⟨fun i hd => by rw [hstep, hd]; rfl, fun r hd => by rw [hstep, hd]; rfl⟩

/-- Settles O7: both moves run the arm of `RESET`. -/
theorem stepTakesTheResetInput : Obligations.StepTakesTheResetInput := by
  unfold Obligations.StepTakesTheResetInput
  exact fun _ _ => ⟨rfl, rfl⟩

/-- Settles O8: there is no move to take. -/
theorem stepHoldsStateWithoutCommand : Obligations.StepHoldsStateWithoutCommand := by
  unfold Obligations.StepHoldsStateWithoutCommand
  exact fun _ hin => takeMove_nil hin

/-! ### Words and addresses -/

/-- Settles O1, by decoding each word. -/
theorem writtenWordsDecode : Obligations.WrittenWordsDecode := by
  unfold Obligations.WrittenWordsDecode
  decide

/-- Settles O19: the arm of the reserved opcode looks at nothing. -/
theorem reservedOpcodeIsDropped : Obligations.ReservedOpcodeIsDropped := by
  unfold Obligations.ReservedOpcodeIsDropped
  exact fun _ _ => rfl

/-- Settles O21, from the laws of the map. -/
theorem registerMapIsOneToOne : Obligations.RegisterMapIsOneToOne := by
  unfold Obligations.RegisterMapIsOneToOne
  exact ⟨Csr.ofAddr_addr, fun _ _ h => (Csr.eq_addr_of_ofAddr h).symm, fun _ => Csr.ofAddr_eq_none_iff⟩

/-! ### The number format as an argument (R8, R49) -/

section Format
variable {F : Type} (A : Format F) {s : State}

theorem execIn_sample_run (b : Byte) (hp : s.phase = .run) :
    execIn A (.sample b) s = .next (s.acceptSample A b) := by
  simp [execIn, execSampleIn, hp]

/-- Only the completed frame and the reset look at the format (R54 to R58, R104, R105). -/
theorem execIn_eq_exec {i : Instr} (hreset : i ≠ .reset)
    (hframe : ¬ ((∃ b, i = .sample b) ∧ s.phase = .run ∧ s.cnt.val = 239)) : execIn A i s = exec i s := by
  cases i with
  | reset => exact absurd rfl hreset
  | nop | eos | start | wrcsr | rdcsr | reservedOp6 => rfl
  | sample b =>
    rcases hp : s.phase with _ | _
    · simp [execIn, exec, execSample, execSampleIn, hp]
    · have hc : s.cnt.val < 239 := by
        have : s.cnt.val ≠ 239 := fun hc => hframe ⟨⟨b, rfl⟩, hp, hc⟩
        omega
      simp [execIn, exec, execSample, execSampleIn, hp, acceptSample_next _ b hc]

end Format

/-- Settles O60: the reset patterns and the completed frame are the format's, and at binary32 the machine is `exec` and
`step`. -/
theorem formatIsAnArgument : Obligations.FormatIsAnArgument := by
  unfold Obligations.FormatIsAnArgument
  refine ⟨fun F A s => ⟨rfl, rfl, fun b hp hc => ?frame, fun i => execIn_eq_exec A⟩, ?thresh, ?range,
    fun i s => by rw [execIn_fmt], fun s => by rw [stepIn_fmt]⟩
  case thresh => rw [resetIn_fmt]; rfl
  case range => rw [resetIn_fmt]; rfl
  case frame =>
    intro fb p v
    refine ⟨s.powerBits A p, fun j => ⟨_, getElem_powerBits A s p j⟩, ?_⟩
    rw [execIn_sample_run A b hp, acceptSample_last_eq A b hc]
    rfl

end Sys2Proof.Machine

namespace Sys2Proof.Machine

/-! Runs of samples: how they fill the frame (R36), complete it (R57), and what a session leaves (R60, R62). -/

/-- The state after a list of accepted samples, the oldest first. -/
def State.acceptAll {F : Type} (A : Format F) (s : State) (bs : List Byte) : State := bs.foldl (State.acceptSample A) s

section AcceptAll
variable {F : Type} (A : Format F)

@[simp] theorem acceptAll_nil (s : State) : s.acceptAll A [] = s := rfl

theorem acceptAll_cons (s : State) (b : Byte) (bs : List Byte) :
    s.acceptAll A (b :: bs) = (s.acceptSample A b).acceptAll A bs := rfl

@[simp] theorem acceptAll_concat (s : State) (bs : List Byte) (b : Byte) :
    s.acceptAll A (bs ++ [b]) = (s.acceptAll A bs).acceptSample A b := by
  simp [State.acceptAll]

@[simp] theorem acceptAll_phase (s : State) (bs : List Byte) : (s.acceptAll A bs).phase = s.phase := by
  induction bs generalizing s with
  | nil => rfl
  | cons b bs ih => rw [acceptAll_cons, ih, acceptSample_phase]

end AcceptAll

/-- In `RUN` every sample is accepted, so a run of samples completes. -/
theorem runInstrs_samples {s : State} (hp : s.phase = .run) (bs : List Byte) :
    runInstrs (bs.map Instr.sample) s = .next (s.acceptAll fmt bs) := by
  induction bs generalizing s with
  | nil => rfl
  | cons b bs ih =>
    calc runInstrs ((b :: bs).map Instr.sample) s
        = runInstrs (bs.map Instr.sample) (s.acceptSample fmt b) := runAll_cons _ (execSample_run b hp)
      _ = _ := ih (by rw [acceptSample_phase, hp])

/-- A session from `IDLE` under a supported encoding: opened, filled and closed. -/
theorem runInstrs_session {s : State} (hp : s.phase = .idle) (henc : encSupported s.enc = true) (bs : List Byte) :
    runInstrs (.start :: (bs.map Instr.sample ++ [.eos])) s =
      .next ((s.openSession.acceptAll fmt bs).closeSession.appendOut endWord) := by
  have hstart : exec .start s = .next s.openSession := (execStart_idle hp).trans (congrArg _ (if_pos henc))
  have heos : exec .eos (s.openSession.acceptAll fmt bs) = _ := execEos_run (by rw [acceptAll_phase]; rfl)
  calc runInstrs (.start :: (bs.map Instr.sample ++ [Instr.eos])) s
      = runInstrs (bs.map Instr.sample ++ [Instr.eos]) s.openSession := runAll_cons _ hstart
    _ = runInstrs [Instr.eos] (s.openSession.acceptAll fmt bs) := runAll_append _ (runInstrs_samples rfl bs)
    _ = _ := runAll_cons [] heos

/-! ### A partial frame -/

/-- From a boundary the samples of a partial frame stand in the buffer in order, and touch nothing else (R36). -/
theorem acceptAll_partial {F : Type} (A : Format F) {s : State} (hc : s.cnt = 0) (hwf : s.fb.wf) (bs : List Byte)
    (hlen : bs.length < 240) :
    ∃ (fb : Memory) (c : Fin 240), s.acceptAll A bs = { s with fb := fb, cnt := c } ∧ c.val = bs.length ∧ fb.wf ∧
      ∀ i (h : i < bs.length), fb.read i = bs[i] := by
  induction bs using List.reverseRecOn with
  | nil => exact ⟨s.fb, s.cnt, rfl, by rw [hc]; rfl, hwf, by simp⟩
  | append_singleton bs b ih =>
    rw [List.length_append, List.length_singleton] at hlen
    obtain ⟨fb, c, hs, hval, hfb, hread⟩ := ih (by omega)
    have hlt : c.val < 239 := by omega
    refine ⟨fb.write c.val b, cntSucc c, ?_, ?_, Memory.wf_write b hfb c.isLt, fun i hi => ?_⟩
    · rw [acceptAll_concat, hs, acceptSample_next A b hlt]
      rfl
    · rw [cntSucc_val hlt, hval, List.length_append, List.length_singleton]
    · rw [Memory.read_write hfb, hval, List.getElem_append]
      rw [List.length_append, List.length_singleton] at hi
      by_cases hlast : i = bs.length
      · simp [hlast]
      · have hi' : i < bs.length := by omega
        rw [if_neg hlast, dif_pos hi', hread i hi']

/-- Settles O32, from the partial frame. -/
theorem samplesFillTheFrameInOrder : Obligations.SamplesFillTheFrameInOrder := by
  unfold Obligations.SamplesFillTheFrameInOrder
  intro s bs hp hc hwf hlen
  obtain ⟨fb, c, hs, hval, -, hread⟩ := acceptAll_partial fmt hc hwf bs hlen
  refine ⟨s.acceptAll fmt bs, runInstrs_samples hp bs, ?_, fun i hi => ?_, ?_⟩
  · rw [hs]; exact hval
  · rw [hs]; exact hread i hi
  · rw [hs]

/-! ### A whole frame -/

/-- The frame the last of 240 samples completes is those samples: the earlier ones lie below it. -/
theorem frame_write_of_reads {fb : Memory} (hfb : fb.wf) {bs : List Byte} (b : Byte) (hlen : bs.length = 239)
    (hread : ∀ i (h : i < bs.length), fb.read i = bs[i]) : (fb.write 239 b).frame = bs ++ [b] := by
  refine List.ext_getElem (by simp [hlen]) fun i hi hi' => ?_
  rw [Memory.getElem_frame, Memory.read_write hfb, List.getElem_append]
  rw [Memory.length_frame] at hi
  by_cases hlast : i = 239
  · simp [hlast, hlen]
  · have hi'' : i < bs.length := by omega
    rw [if_neg hlast, dif_pos hi'', hread i hi'']

/-- From a boundary 240 samples complete one frame, of exactly those bytes, whatever the buffer held (R57). -/
theorem acceptAll_frame {F : Type} (A : Format F) {s : State} (hc : s.cnt = 0) (hwf : s.fb.wf) {bs : List Byte}
    (hlen : bs.length = 240) :
    let p := estimate A bs s.enc
    ∃ fb : Memory, s.acceptAll A bs =
      State.finishFrame { s with fb := fb, cnt := 0 } (s.powerBits A p)
        (classify A p (A.ofBits s.thresh) (A.ofBits s.range) s.mf) := by
  intro p
  obtain ⟨bs, b, rfl⟩ : ∃ init b, bs = init ++ [b] := ⟨_, _, (List.dropLast_append_getLast (by grind)).symm⟩
  have hinit : bs.length = 239 := by simpa using hlen
  obtain ⟨fb, c, hs, hval, hfb, hread⟩ := acceptAll_partial A hc hwf bs (by omega)
  have hlast := acceptSample_last_eq A (s := { s with fb := fb, cnt := c }) b (hval.trans hinit)
  have hbits : ∀ q, State.powerBits A { s with fb := fb, cnt := c } q = s.powerBits A q :=
    fun q => powerBits_congr A q rfl
  simp only [frame_write_of_reads hfb b hinit hread, hbits] at hlast
  exact ⟨fb.write 239 b, by rw [acceptAll_concat, hs, hlast]⟩

/-- Settles O33, from the whole frame. -/
theorem frameOfSamplesIsClassified : Obligations.FrameOfSamplesIsClassified := by
  unfold Obligations.FrameOfSamplesIsClassified
  intro s bs hp hc hwf hlen p v
  obtain ⟨fb, hs⟩ := acceptAll_frame fmt hc hwf hlen
  refine ⟨s.acceptAll fmt bs, runInstrs_samples hp bs, ?_, ?_⟩
  · rw [hs, ← hc]
    rfl
  · rw [hs]
    exact fun j => ⟨_, getElem_powerBits_fmt s p j⟩

/-! ### A session -/

/-- What a run of samples from an open session leaves on `OUT` and in the counters: a word for every multiple of 240
that the count of samples reaches (R60). -/
theorem acceptAll_counts {F : Type} (A : Format F) (s : State) (bs : List Byte) :
    ∃ syms : List Symbol, syms.length = (s.cnt.val + bs.length) / 240 ∧
      (s.acceptAll A bs).out = s.out ++ syms.map symbolWord ∧
      (s.acceptAll A bs).frames = s.frames + BitVec.ofNat 32 syms.length ∧
      (s.acceptAll A bs).cnt.val = (s.cnt.val + bs.length) % 240 ∧
      (s.acceptAll A bs).symv = (s.symv || decide (0 < syms.length)) := by
  induction bs using List.reverseRecOn with
  | nil => exact ⟨[], by simp; omega, by simp, by simp, by simp; omega, by simp⟩
  | append_singleton bs b ih =>
    obtain ⟨syms, hlen, hout, hframes, hcnt, hsymv⟩ := ih
    rw [acceptAll_concat, acceptSample_cnt, List.length_append, List.length_singleton]
    by_cases hlast : (s.acceptAll A bs).cnt.val = 239
    · obtain ⟨hout', hframes', -⟩ := acceptSample_last_streams A b hlast
      refine ⟨syms ++ [((s.acceptAll A bs).acceptSample A b).sym], ?_, ?_, ?_, ?_, ?_⟩
      · rw [List.length_append, List.length_singleton]; omega
      · rw [hout', hout]; simp
      · rw [hframes', hframes, List.length_append, List.length_singleton, BitVec.ofNat_add, BitVec.add_assoc]; rfl
      · rw [cntSucc_last hlast]; simp; omega
      · rw [acceptSample_last A b (Fin.ext hlast), frameDone_eq]; simp
    · obtain ⟨hout', hframes', -⟩ := acceptSample_next_streams A b hlast
      have hlt : (s.acceptAll A bs).cnt.val < 239 := by omega
      refine ⟨syms, by omega, hout'.trans hout, hframes'.trans hframes, by rw [cntSucc_val hlt]; omega, ?_⟩
      rw [acceptSample_next A b hlt]
      exact hsymv

/-- Settles O34: the session is opened at `CNT` = 0 with no frame counted. -/
theorem sessionTruncatesToWholeFrames : Obligations.SessionTruncatesToWholeFrames := by
  unfold Obligations.SessionTruncatesToWholeFrames
  intro s bs hp henc
  obtain ⟨syms, hlen, hout, hframes, -, hsymv⟩ := acceptAll_counts fmt s.openSession bs
  have hlen' : syms.length = bs.length / 240 := by simpa using hlen
  refine ⟨_, syms, runInstrs_session hp henc bs, hlen', ?_, ?_, rfl, rfl, rfl, ?_⟩
  · simp [hout]
  · simp [hframes, hlen']
  · simp [hsymv, hlen', Nat.pos_iff_ne_zero]

/-- Two open sessions with one view of the current frame: the same position, bracket and configuration, the same
samples below `CNT`; the first has the words `o` on `OUT` before those of the second. -/
structure State.SameSession (o : List OutWord) (s u : State) : Prop where
  cnt : s.cnt = u.cnt
  mf : s.mf = u.mf
  config : s.config = u.config
  wfLeft : s.fb.wf
  wfRight : u.fb.wf
  reads : ∀ i, i < s.cnt.val → s.fb.read i = u.fb.read i
  out : s.out = o ++ u.out

/-- The words of a frame depend on what the two sessions share (R57, R80). -/
theorem State.SameSession.acceptSample {F : Type} (A : Format F) {o : List OutWord} {s u : State}
    (h : s.SameSession o u) (b : Byte) : (s.acceptSample A b).SameSession o (u.acceptSample A b) := by
  obtain ⟨hcnt, hmf, hconfig, hs, hu, hreads, hout⟩ := h
  obtain ⟨henc, hthresh, hrange⟩ := State.config_eq_iff.mp hconfig
  have hreads' : ∀ i, i ≤ s.cnt.val → (s.fb.write s.cnt.val b).read i = (u.fb.write u.cnt.val b).read i := by
    intro i hi
    rw [Memory.read_write hs, Memory.read_write hu, ← hcnt]
    split_ifs with hlast
    · rfl
    · exact hreads i (by omega)
  have hwf := Memory.wf_write b hs s.cnt.isLt
  have hwf' := Memory.wf_write b hu u.cnt.isLt
  by_cases hc : s.cnt.val = 239
  · have hframe : (s.fb.write 239 b).frame = (u.fb.write 239 b).frame :=
      Memory.frame_write_last hs hu (fun i hi => hreads i (hc ▸ hi)) b
    rw [acceptSample_last_eq A b hc, acceptSample_last_eq A b (s := u) (hcnt ▸ hc)]
    simp only [hframe, henc, hthresh, hrange, hmf]
    rw [hc] at hwf
    rw [← hcnt, hc] at hwf'
    exact ⟨rfl, rfl, rfl, hwf, hwf', nofun, by simp [hout]⟩
  · have hlt : s.cnt.val < 239 := by omega
    rw [acceptSample_next A b hlt, acceptSample_next A b (s := u) (hcnt ▸ hlt)]
    refine ⟨congrArg cntSucc hcnt, hmf, hconfig, hwf, hwf', fun i hi => hreads' i ?_, hout⟩
    rw [State.setCnt_cnt, cntSucc_val hlt] at hi
    omega

theorem State.SameSession.acceptAll {F : Type} (A : Format F) {o : List OutWord} {s u : State}
    (h : s.SameSession o u) (bs : List Byte) : (s.acceptAll A bs).SameSession o (u.acceptAll A bs) := by
  induction bs generalizing s u with
  | nil => exact h
  | cons b bs ih => exact ih (h.acceptSample A b)

/-- Settles O36: a session opened on any state and one opened on the fresh state start with one view. -/
theorem sessionsAreIndependent : Obligations.SessionsAreIndependent := by
  unfold Obligations.SessionsAreIndependent
  intro s bs hp henc hwf session fresh
  have hopen : s.openSession.SameSession s.out fresh.openSession :=
    { cnt := rfl, mf := rfl, config := rfl, wfLeft := hwf, wfRight := Memory.wf_nil, reads := nofun,
      out := (List.append_nil _).symm }
  refine ⟨_, _, runInstrs_session hp henc bs, runInstrs_session (s := fresh) rfl henc bs, ?_⟩
  simp [(hopen.acceptAll fmt bs).out]

end Sys2Proof.Machine

namespace Sys2Proof.Machine

/-! The estimator: what the encoding and silence give (R65, R73), and the identities of exact arithmetic (R70). -/

/-! ### Frames with one list of normalised samples -/

/-- The exclusive-or with `0x80` takes two's complement to offset 128 (R46). -/
theorem sampleValue_xor (b : Byte) : sampleValue 1#2 (b ^^^ 0x80#8) = sampleValue 0#2 b := by
  revert b; decide +kernel

theorem norm_fmt_xor (b : Byte) : norm fmt 1#2 (b ^^^ 0x80#8) = norm fmt 0#2 b := by
  rw [norm_fmt _ rfl, norm_fmt _ rfl, sampleValue_xor]

/-- Settles O43: both frames have the same normalised samples. -/
theorem encodingIndependentPowers : Obligations.EncodingIndependentPowers := by
  unfold Obligations.EncodingIndependentPowers
  intro frame
  have hsamples : normFrame fmt 1#2 (frame.map (· ^^^ 0x80#8)) = normFrame fmt 0#2 frame := by
    simp only [normFrame, List.map_map, Function.comp_def, norm_fmt_xor]
  exact estimate_eq_iff.mpr fun j => by rw [getElem_estimate, getElem_estimate, hsamples]

/-! ### Silence -/

/-- An exact zero keeps the sign it is given. -/
@[simp] theorem B32.round_zero (s : Bool) {d : Nat} (hd : 0 < d) : B32.round s 0 d = .fin s 0 := by
  have hlt : 0 < B32.overflow := Nat.zero_lt_of_lt (B32.two_pow_lt_overflow (e := 0) (by decide))
  exact B32.round_of_representable (B32.representable_fin_iff.mpr ⟨hlt, Nat.dvd_zero _⟩) hd (Nat.zero_mul d).symm

/-- A finite value times `+0.0` is a zero of its sign. -/
theorem B32.mul_zero (s : Bool) (m : Nat) : B32.mul (.fin s m) (.fin false 0) = .fin s 0 := by
  rw [B32.mul, Bool.xor_false, Nat.mul_zero, B32.round_zero s (Nat.two_pow_pos _)]

theorem B32.zero_add (s : Bool) : B32.add (.fin false 0) (.fin s 0) = .fin false 0 := by
  cases s with
  | true => simp [B32.add]
  | false => simp [B32.add]

theorem B32.zero_sub (s : Bool) : B32.sub (.fin false 0) (.fin s 0) = .fin false 0 := B32.zero_add (!s)

/-! The lane in binary32, operation by operation (R65, R66, R68). -/

theorem laneStart_fmt : laneStart fmt.toArith = ⟨.fin false 0, .fin false 0⟩ := rfl

theorem laneStep_fmt (c x : B32) (u : Lane B32) :
    laneStep fmt.toArith c u x = ⟨B32.sub (B32.add x (B32.mul c u.u0)) u.u1, u.u0⟩ := rfl

theorem laneCombine_fmt (c : B32) (u : Lane B32) :
    laneCombine fmt.toArith c u =
      B32.sub (B32.add (B32.mul u.u0 u.u0) (B32.mul u.u1 u.u1)) (B32.mul (B32.mul c u.u0) u.u1) := rfl

/-- A zero sample leaves a lane at its start, whatever the finite coefficient (R65, corner case). -/
theorem laneStep_zero (s : Bool) (m : Nat) :
    laneStep fmt.toArith (.fin s m) (laneStart fmt.toArith) (.fin false 0) = laneStart fmt.toArith := by
  rw [laneStart_fmt, laneStep_fmt, B32.mul_zero, B32.zero_add, B32.zero_sub]

theorem laneCombine_zero (s : Bool) (m : Nat) :
    laneCombine fmt.toArith (.fin s m) (laneStart fmt.toArith) = .fin false 0 := by
  simp only [laneStart_fmt, laneCombine_fmt, B32.mul_zero, B32.zero_add, B32.zero_sub]

theorem lanePower_zero (s : Bool) (m k : Nat) :
    lanePower fmt.toArith (.fin s m) (List.replicate k (.fin false 0)) = .fin false 0 := by
  have hrun : laneRun fmt.toArith (.fin s m) (List.replicate k (.fin false 0)) = laneStart fmt.toArith := by
    induction k with
    | zero => rfl
    | succ k ih => rw [List.replicate_succ', laneRun_concat, ih, laneStep_zero]
  rw [lanePower, hrun, laneCombine_zero]

/-- Every coefficient of R75 is finite. -/
theorem coef_fmt_finite (j : Bin) : ∃ s m, coef fmt j = .fin s m := by
  have hfinite : ∀ j : Bin, coef fmt j ≠ .nan ∧ ∀ s, coef fmt j ≠ .inf s := by decide +kernel
  obtain ⟨hnan, hinf⟩ := hfinite j
  cases h : coef fmt j with
  | nan => exact absurd h hnan
  | inf s => exact absurd h (hinf s)
  | fin s m => exact ⟨s, m, rfl⟩

theorem getElem_estimate_silence {enc : BitVec 2} {b : Byte} (hb : norm fmt enc b = .fin false 0) (k : Nat) (j : Bin) :
    (estimate fmt (List.replicate k b) enc)[j] = .fin false 0 := by
  obtain ⟨s, m, hc⟩ := coef_fmt_finite j
  rw [getElem_estimate, normFrame, List.map_replicate, hb, hc, lanePower_zero]

/-- Settles O44: the silence byte of each encoding is normalised to `+0.0`. -/
theorem silentFramePowersAreZero : Obligations.SilentFramePowersAreZero := by
  unfold Obligations.SilentFramePowersAreZero
  exact fun k j => ⟨getElem_estimate_silence (norm_fmt _ rfl) k j, getElem_estimate_silence (norm_fmt _ rfl) k j⟩

/-! ### Exact arithmetic -/

theorem laneRun_append {F : Type} (A : Arith F) (c : F) (xs ys : List F) :
    laneRun A c (xs ++ ys) = ys.foldl (laneStep A c) (laneRun A c xs) := by
  simp [laneRun]

section Ideal
variable {R : Type} [CommRing R] (c : R)

theorem laneStep_ideal (u : Lane R) (x : R) :
    laneStep (idealArith R) c u x = ⟨x + c * u.u0 - u.u1, u.u0⟩ := rfl

theorem laneCombine_ideal (u : Lane R) :
    laneCombine (idealArith R) c u = u.u0 * u.u0 + u.u1 * u.u1 - c * u.u0 * u.u1 := rfl

/-- A zero sample leaves the power: the recurrence keeps its quadratic form. -/
theorem laneCombine_foldl_zero (u : Lane R) (k : Nat) :
    laneCombine (idealArith R) c ((List.replicate k 0).foldl (laneStep (idealArith R) c) u) =
      laneCombine (idealArith R) c u := by
  induction k generalizing u with
  | zero => rfl
  | succ k ih =>
    rw [List.replicate_succ, List.foldl_cons, ih, laneStep_ideal, laneCombine_ideal, laneCombine_ideal]
    ring

theorem laneRun_ideal_zero (k : Nat) : laneRun (idealArith R) c (List.replicate k 0) = ⟨0, 0⟩ := by
  induction k with
  | zero => rfl
  | succ k ih => rw [List.replicate_succ', laneRun_concat, ih, laneStep_ideal]; simp

theorem lanePower_impulse (v : R) (a b : Nat) :
    lanePower (idealArith R) c (List.replicate a 0 ++ v :: List.replicate b 0) = v * v := by
  rw [lanePower, laneRun_append, List.foldl_cons, laneCombine_foldl_zero, laneRun_ideal_zero, laneStep_ideal,
    laneCombine_ideal]
  ring

end Ideal

/-- Settles O46, over the rationals. -/
theorem idealImpulsePowerIsItsSquare : Obligations.IdealImpulsePowerIsItsSquare := by
  unfold Obligations.IdealImpulsePowerIsItsSquare
  exact fun c v a b => lanePower_impulse c v a b

/-- The transform of the samples at `ω`, as R70 writes it. -/
noncomputable def dft (ω : ℝ) (xs : List ℝ) : ℂ :=
  ∑ n : Fin xs.length, (xs[n] : ℂ) * Complex.exp (-(Complex.I * ω * (n.val : ℂ)))

theorem dft_concat (ω : ℝ) (xs : List ℝ) (x : ℝ) :
    dft ω (xs ++ [x]) = dft ω xs + x * Complex.exp (-(Complex.I * ω * (xs.length : ℂ))) := by
  have hrange (ys : List ℝ) : dft ω ys =
      ∑ n ∈ Finset.range ys.length, ((ys.getD n 0 : ℝ) : ℂ) * Complex.exp (-(Complex.I * ω * (n : ℂ))) := by
    rw [Finset.sum_range, dft]
    exact Finset.sum_congr rfl fun n _ => by simp
  rw [hrange, hrange, List.length_append, List.length_singleton, Finset.sum_range_succ]
  congr 1
  · refine Finset.sum_congr rfl fun n hn => ?_
    rw [List.getD_append _ _ _ _ (Finset.mem_range.mp hn)]
  · simp

/-- `u0 − e^{−iω}·u1`, the complex number whose squared magnitude the lane combines (R66, R70). -/
noncomputable def laneAmplitude (ω : ℝ) (u : Lane ℝ) : ℂ := u.u0 - Complex.exp (-(Complex.I * ω)) * u.u1

theorem normSq_laneAmplitude (ω : ℝ) (u : Lane ℝ) :
    Complex.normSq (laneAmplitude ω u) = laneCombine (idealArith ℝ) (2 * Real.cos ω) u := by
  have hexp : Complex.exp (-(Complex.I * ω)) = Complex.mk (Real.cos ω) (-Real.sin ω) := by
    rw [show -(Complex.I * ω) = ((-ω : ℝ) : ℂ) * Complex.I by push_cast; ring, Complex.exp_mul_I]
    apply Complex.ext <;> simp [← Complex.ofReal_cos, ← Complex.ofReal_sin]
  rw [laneAmplitude, hexp, laneCombine_ideal, Complex.normSq_apply]
  simp
  linear_combination u.u1 ^ 2 * Real.sin_sq_add_cos_sq ω

/-- A step turns the amplitude by `e^{iω}` and adds the sample: `2·cos ω` is `e^{iω} + e^{−iω}`. -/
theorem laneAmplitude_step (ω x : ℝ) (u : Lane ℝ) :
    laneAmplitude ω (laneStep (idealArith ℝ) (2 * Real.cos ω) u x) =
      x + Complex.exp (Complex.I * ω) * laneAmplitude ω u := by
  have hcos : 2 * Complex.cos ω = Complex.exp (Complex.I * ω) + Complex.exp (-(Complex.I * ω)) := by
    rw [Complex.two_cos, neg_mul, mul_comm (ω : ℂ)]
  have hinv : Complex.exp (Complex.I * ω) * Complex.exp (-(Complex.I * ω)) = 1 := by
    rw [← Complex.exp_add, add_neg_cancel, Complex.exp_zero]
  rw [laneStep_ideal, laneAmplitude, laneAmplitude]
  push_cast
  linear_combination (u.u0 : ℂ) * hcos + (u.u1 : ℂ) * hinv

/-- After `N` samples the amplitude is the transform, turned by `e^{iω(N−1)}`. -/
theorem laneAmplitude_run (ω : ℝ) (xs : List ℝ) :
    Complex.exp (Complex.I * ω) * laneAmplitude ω (laneRun (idealArith ℝ) (2 * Real.cos ω) xs) =
      Complex.exp (Complex.I * ω * xs.length) * dft ω xs := by
  induction xs using List.reverseRecOn with
  | nil => simp [laneAmplitude, laneStart, idealArith, dft]
  | append_singleton xs x ih =>
    have hnext : Complex.exp (Complex.I * ω * (xs.length + 1)) =
        Complex.exp (Complex.I * ω) * Complex.exp (Complex.I * ω * xs.length) := by
      rw [← Complex.exp_add]; ring_nf
    have hinv : Complex.exp (Complex.I * ω * xs.length) * Complex.exp (-(Complex.I * ω * xs.length)) = 1 := by
      rw [← Complex.exp_add, add_neg_cancel, Complex.exp_zero]
    rw [laneRun_concat, laneAmplitude_step, ih, dft_concat, List.length_append, List.length_singleton]
    push_cast
    rw [hnext]
    linear_combination (-(x : ℂ) * Complex.exp (Complex.I * ω)) * hinv

/-- Settles O45: turning a complex number does not change its magnitude. -/
theorem idealPowerIsDftMagnitude : Obligations.IdealPowerIsDftMagnitude := by
  unfold Obligations.IdealPowerIsDftMagnitude
  intro ω xs
  have hunit (n : ℕ) : Complex.normSq (Complex.exp (Complex.I * ω * n)) = 1 := by
    rw [Complex.normSq_eq_norm_sq, show Complex.I * ω * n = ((ω * n : ℝ) : ℂ) * Complex.I by push_cast; ring,
      Complex.norm_exp_ofReal_mul_I, one_pow]
  have hrun := congrArg Complex.normSq (laneAmplitude_run ω xs)
  have hone := hunit 1
  rw [Nat.cast_one, mul_one] at hone
  rw [Complex.normSq_mul, Complex.normSq_mul, hone, hunit, one_mul, one_mul, normSq_laneAmplitude] at hrun
  exact hrun

end Sys2Proof.Machine

namespace Sys2Proof.Machine

/-! The rounding of the number format, to nearest with ties to even (R69). -/

/-! ### Magnitudes of the format -/

/-- A magnitude of at most 24 significant bits, or a multiple of 1, whichever is coarser. -/
def InFormat (m : Nat) : Prop := 2 ^ (m.log2 - 23) ∣ m

theorem inFormat_iff {m : Nat} : InFormat m ↔ m % 2 ^ (m.log2 - 23) = 0 := Nat.dvd_iff_mod_eq_zero

/-- An integer of at most 24 bits at any binary weight. -/
theorem inFormat_mul_two_pow {k : Nat} (hk : k < 2 ^ 24) (e : Nat) : InFormat (k * 2 ^ e) := by
  rcases Nat.eq_zero_or_pos k with rfl | hpos
  · simp [InFormat]
  · have hlog : (k * 2 ^ e).log2 < 24 + e := by
      rw [Nat.log2_lt (by positivity), pow_add]
      exact Nat.mul_lt_mul_of_pos_right hk (by positivity)
    exact Dvd.dvd.mul_left (Nat.pow_dvd_pow 2 (by omega)) k

/-- A significand of exactly 24 bits fixes the exponent. -/
theorem log2_mul_two_pow {k : Nat} (hlow : 2 ^ 23 ≤ k) (hhigh : k < 2 ^ 24) (e : Nat) :
    (k * 2 ^ e).log2 = 23 + e := by
  rw [Nat.log2_eq_iff (by positivity), pow_add, show 23 + e + 1 = 24 + e by omega, pow_add]
  exact ⟨Nat.mul_le_mul_right _ hlow, Nat.mul_lt_mul_of_pos_right hhigh (by positivity)⟩

/-- From `2^(23+e)` on the magnitudes of the format are multiples of `2^e`. -/
theorem InFormat.two_pow_dvd {m e : Nat} (hm : InFormat m) (h : 2 ^ (23 + e) ≤ m) : 2 ^ e ∣ m := by
  have hne : m ≠ 0 := by have := Nat.two_pow_pos (23 + e); omega
  have hlog : 23 + e ≤ m.log2 := (Nat.le_log2 hne).mpr h
  exact (Nat.pow_dvd_pow 2 (by omega)).trans hm

/-! ### The nearest multiple -/

/-- Rounding a quotient goes down or up. -/
theorem roundQuot_cases (n d : Nat) :
    (roundQuot n d = n / d ∧ 2 * (n % d) ≤ d ∧ (2 * (n % d) = d → roundQuot n d % 2 = 0)) ∨
      (roundQuot n d = n / d + 1 ∧ d ≤ 2 * (n % d) ∧ (2 * (n % d) = d → roundQuot n d % 2 = 0)) := by
  unfold roundQuot
  grind

theorem sub_mul_eq (n d j : Nat) : (n : Int) - j * d = ((n / d : Nat) - j : Int) * d + (n % d : Nat) := by
  have hn : (n : Int) = (n / d : Nat) * d + (n % d : Nat) := by exact_mod_cast (Nat.div_add_mod' n d).symm
  rw [hn]
  ring

/-- Every multiple of `d` but the two next to `n` is more than `d` away from it. -/
theorem sub_mul_cases (n d j : Nat) :
    (n : Int) - j * d ≤ (n % d : Nat) - 2 * d ∨ j = n / d + 1 ∨ j = n / d ∨ ((n % d : Nat) : Int) + d ≤ n - j * d := by
  rw [sub_mul_eq]
  rcases (by omega : n / d + 2 ≤ j ∨ j = n / d + 1 ∨ j = n / d ∨ j + 1 ≤ n / d) with h | h | h | h
  · have hfar : ((n / d : Nat) - j : Int) ≤ -2 := by omega
    exact .inl (by nlinarith)
  · exact .inr (.inl h)
  · exact .inr (.inr (.inl h))
  · have hfar : 1 ≤ ((n / d : Nat) - j : Int) := by omega
    exact .inr (.inr (.inr (by nlinarith)))

/-- The rounded quotient is a nearest integer, and the even one of two (R69). -/
theorem roundQuot_nearest (n : Nat) {d : Nat} (hd : 0 < d) (j : Nat) :
    |(n : Int) - roundQuot n d * d| ≤ |(n : Int) - j * d| ∧
      (j ≠ roundQuot n d → |(n : Int) - roundQuot n d * d| = |(n : Int) - j * d| → roundQuot n d % 2 = 0) := by
  have hr : n % d < d := Nat.mod_lt n hd
  have hdown : (n : Int) - (n / d : Nat) * d = (n % d : Nat) := by rw [sub_mul_eq]; ring
  have hup : (n : Int) - (n / d + 1 : Nat) * d = (n % d : Nat) - d := by rw [sub_mul_eq]; push_cast; ring
  rcases roundQuot_cases n d with ⟨hQ, hle, heven⟩ | ⟨hQ, hle, heven⟩
  · rw [hQ] at heven ⊢
    rcases sub_mul_cases n d j with hj | rfl | rfl | hj
    · rw [hdown]; simp only [abs_eq_max_neg]; omega
    · rw [hdown, hup]; simp only [abs_eq_max_neg]; omega
    · simp
    · rw [hdown]; simp only [abs_eq_max_neg]; omega
  · rw [hQ] at heven ⊢
    rcases sub_mul_cases n d j with hj | rfl | rfl | hj
    · rw [hup]; simp only [abs_eq_max_neg]; omega
    · simp
    · rw [hup, hdown]; simp only [abs_eq_max_neg]; omega
    · rw [hup]; simp only [abs_eq_max_neg]; omega

/-! ### The rounded magnitude -/

/-- The weight of the last significant bit, as an exponent. -/
def roundExp (n d : Nat) : Nat := (n / d).log2 - 23

theorem roundMag_eq (n d : Nat) :
    roundMag n d = roundQuot n (d * 2 ^ roundExp n d) * 2 ^ roundExp n d := rfl

/-- The significand before rounding has at most 24 bits, and exactly 24 above the units. -/
theorem quot_lt (n d : Nat) : n / (d * 2 ^ roundExp n d) < 2 ^ 24 := by
  rw [← Nat.div_div_eq_div_mul, Nat.div_lt_iff_lt_mul (Nat.two_pow_pos _), ← pow_add]
  exact Nat.lt_log2_self.trans_le (Nat.pow_le_pow_right (by decide) (by unfold roundExp; omega))

theorem le_quot {n d : Nat} (he : 0 < roundExp n d) : 2 ^ 23 ≤ n / (d * 2 ^ roundExp n d) := by
  have hlog : (n / d).log2 = 23 + roundExp n d := by unfold roundExp at he ⊢; omega
  have hne : n / d ≠ 0 := fun h => by rw [h, Nat.log2_zero] at hlog; omega
  rw [← Nat.div_div_eq_div_mul, Nat.le_div_iff_mul_le (Nat.two_pow_pos _), ← pow_add, ← hlog]
  exact Nat.log2_self_le hne

theorem roundQuot_bounds (n d : Nat) : n / d ≤ roundQuot n d ∧ roundQuot n d ≤ n / d + 1 := by
  rcases roundQuot_cases n d with ⟨h, -, -⟩ | ⟨h, -, -⟩ <;> omega

theorem roundMag_inFormat (n d : Nat) : InFormat (roundMag n d) := by
  have hle := (roundQuot_bounds n (d * 2 ^ roundExp n d)).2
  have hlt := quot_lt n d
  rw [roundMag_eq]
  rcases Nat.lt_or_eq_of_le (by omega : roundQuot n (d * 2 ^ roundExp n d) ≤ 2 ^ 24) with h | h
  · exact inFormat_mul_two_pow h _
  · rw [h, ← pow_add, ← Nat.one_mul (2 ^ _)]
    exact inFormat_mul_two_pow (by decide) _

/-- No magnitude of the format is nearer to the quotient, and another as near means an even significand (R69). -/
theorem roundMag_nearest (n : Nat) {d : Nat} (hd : 0 < d) {m : Nat} (hm : InFormat m) :
    |(n : Int) - roundMag n d * d| ≤ |(n : Int) - m * d| ∧
      (m ≠ roundMag n d → |(n : Int) - roundMag n d * d| = |(n : Int) - m * d| →
        roundQuot n (d * 2 ^ roundExp n d) % 2 = 0) := by
  have hscale (j : Nat) : ((j * 2 ^ roundExp n d : Nat) : Int) * d = j * (d * 2 ^ roundExp n d : Nat) := by
    push_cast; ring
  have hD : 0 < d * 2 ^ roundExp n d := by positivity
  by_cases hdvd : 2 ^ roundExp n d ∣ m
  · obtain ⟨j, rfl⟩ := hdvd
    obtain ⟨hle, heven⟩ := roundQuot_nearest n hD j
    rw [roundMag_eq, Nat.mul_comm _ j, hscale, hscale]
    exact ⟨hle, fun hne => heven fun h => hne (by rw [h])⟩
  · have he : 0 < roundExp n d := by
      rcases Nat.eq_zero_or_pos (roundExp n d) with h | h
      · rw [h] at hdvd; simp at hdvd
      · exact h
    have hlt : m < 2 ^ 23 * 2 ^ roundExp n d := by
      rw [← pow_add]
      exact Nat.lt_of_not_le fun h => hdvd (hm.two_pow_dvd h)
    have hlow : m < n / (d * 2 ^ roundExp n d) * 2 ^ roundExp n d :=
      hlt.trans_le (Nat.mul_le_mul_right _ (le_quot he))
    have hbelow : (m : Int) * d < (n / (d * 2 ^ roundExp n d) : Nat) * (d * 2 ^ roundExp n d : Nat) := by
      rw [← hscale]
      exact_mod_cast Nat.mul_lt_mul_of_pos_right hlow hd
    have hfloor : ((n / (d * 2 ^ roundExp n d) : Nat) : Int) * (d * 2 ^ roundExp n d : Nat) ≤ n := by
      exact_mod_cast Nat.div_mul_le_self n (d * 2 ^ roundExp n d)
    obtain ⟨hle, -⟩ := roundQuot_nearest n hD (n / (d * 2 ^ roundExp n d))
    rw [roundMag_eq, hscale]
    rw [abs_of_nonneg (a := (n : Int) - (n / (d * 2 ^ roundExp n d) : Nat) * _) (by omega)] at hle
    rw [abs_of_nonneg (a := (n : Int) - m * d) (by omega)]
    exact ⟨by omega, fun _ heq => by omega⟩

/-- The significand of the rounded magnitude is the rounded quotient, or `2^23` after a carry. -/
theorem roundMag_significand (n d : Nat) :
    roundMag n d / 2 ^ ((roundMag n d).log2 - 23) = roundQuot n (d * 2 ^ roundExp n d) ∨
      roundMag n d / 2 ^ ((roundMag n d).log2 - 23) = 2 ^ 23 := by
  rw [roundMag_eq]
  set q := roundQuot n (d * 2 ^ roundExp n d) with hq
  obtain ⟨hge, hle⟩ := roundQuot_bounds n (d * 2 ^ roundExp n d)
  rw [← hq] at hge hle
  have hlt := quot_lt n d
  rcases Nat.lt_or_eq_of_le (by omega : q ≤ 2 ^ 24) with h | h
  · left
    rcases Nat.eq_zero_or_pos (roundExp n d) with he | he
    · have hlog : q.log2 - 23 = 0 := by
        rcases Nat.eq_zero_or_pos q with h0 | h0
        · simp [h0]
        · have := (Nat.log2_lt (by omega)).mpr h
          omega
      simp [he, hlog]
    · rw [log2_mul_two_pow ((le_quot he).trans hge) h, Nat.add_sub_cancel_left,
        Nat.mul_div_cancel _ (Nat.two_pow_pos _)]
  · right
    rw [h, ← pow_add, Nat.log2_two_pow, Nat.pow_div (by omega) (by decide)]
    congr 1
    omega

/-- Settles O37: the nearest integer at the weight of the last bit, and a carry leaves an even significand. -/
theorem roundingIsToNearestEven : Obligations.RoundingIsToNearestEven := by
  unfold Obligations.RoundingIsToNearestEven
  intro n d hd k inFormat
  refine ⟨inFormat_iff.mp (roundMag_inFormat n d), fun m hm => ?_⟩
  obtain ⟨hle, heven⟩ := roundMag_nearest n hd (inFormat_iff.mpr hm)
  refine ⟨hle, fun hne heq => ?_⟩
  rcases roundMag_significand n d with h | h
  · rw [h, heven hne heq]
  · rw [h]; decide

end Sys2Proof.Machine

namespace Sys2Proof.Machine

/-! The operations of binary32 as one rounding of the exact result (R69; 00_scope.md section 5), and its comparisons. -/

/-! ### A finite value as a signed count of units -/

/-- The sign and the magnitude of a finite value as an integer, in units of 2^-149. -/
def signedUnits (s : Bool) (m : Nat) : Int := if s then -(m : Int) else m

theorem B32.toRat_fin (s : Bool) (m : Nat) : (B32.fin s m).toRat = (signedUnits s m : Rat) / 2 ^ 149 := by
  cases s <;> norm_num [B32.toRat, signedUnits]

@[simp] theorem signedUnits_not (s : Bool) (m : Nat) : signedUnits (!s) m = -signedUnits s m := by
  cases s <;> simp [signedUnits]

@[simp] theorem natAbs_signedUnits (s : Bool) (m : Nat) : (signedUnits s m).natAbs = m := by
  cases s <;> simp [signedUnits]

theorem signedUnits_eq_zero_iff {s : Bool} {m : Nat} : signedUnits s m = 0 ↔ m = 0 := by
  rw [← Int.natAbs_eq_zero, natAbs_signedUnits]

theorem signedUnits_neg_iff {s : Bool} {m : Nat} (hm : m ≠ 0) : signedUnits s m < 0 ↔ s = true := by
  cases s <;> simp [signedUnits]; omega

theorem signedUnits_add (s : Bool) (m n : Nat) : signedUnits s m + signedUnits s n = signedUnits s (m + n) := by
  cases s <;> simp [signedUnits]; ring

theorem signedUnits_sub (s : Bool) {m n : Nat} (h : n ≤ m) :
    signedUnits s m + signedUnits (!s) n = signedUnits s (m - n) := by
  cases s <;> simp [signedUnits] <;> omega

/-! ### The operations on finite values -/

/-- An integer count of units rounded to the format; `z` is the sign of a zero. -/
def B32.roundUnits (z : Bool) (v : Int) : B32 := if v = 0 then .fin z 0 else B32.round (decide (v < 0)) v.natAbs 1

theorem B32.roundUnits_signedUnits {z s : Bool} {k : Nat} (hz : k = 0 → z = s) :
    B32.roundUnits z (signedUnits s k) = B32.round s k 1 := by
  simp only [B32.roundUnits, signedUnits_eq_zero_iff]
  split_ifs with hk
  · rw [hz hk, hk, B32.round_zero s Nat.one_pos]
  · simp only [signedUnits_neg_iff hk, natAbs_signedUnits, Bool.decide_eq_true]

/-- The exact sum rounded once: an exact zero is `+0` unless both addends are `-0`. -/
theorem B32.add_fin (s t : Bool) (m n : Nat) :
    B32.add (.fin s m) (.fin t n) = B32.roundUnits (s && t) (signedUnits s m + signedUnits t n) := by
  by_cases hst : s = t
  · subst hst
    rw [B32.add, if_pos rfl, signedUnits_add, B32.roundUnits_signedUnits fun _ => Bool.and_self s]
  · obtain rfl : t = !s := by rw [Bool.eq_not]; exact Ne.symm hst
    rw [B32.add, if_neg hst, Bool.and_not_self]
    rcases lt_trichotomy n m with h | h | h
    · rw [if_pos h, signedUnits_sub s h.le, B32.roundUnits_signedUnits fun hk => by omega]
    · simp [h, B32.roundUnits]
    · have hsum : signedUnits s m + signedUnits (!s) n = signedUnits (!s) (n - m) := by
        simpa [add_comm] using signedUnits_sub (!s) h.le
      rw [if_neg h.not_gt, if_pos h, hsum, B32.roundUnits_signedUnits fun hk => by omega]

theorem B32.sub_fin (s t : Bool) (m n : Nat) :
    B32.sub (.fin s m) (.fin t n) = B32.roundUnits (s && !t) (signedUnits s m - signedUnits t n) := by
  rw [B32.sub, B32.negate, B32.add_fin, signedUnits_not, sub_eq_add_neg]

/-- A rounding that sees the value: `v` units written as a fraction `N / D` in magnitude. -/
theorem B32.roundUnits_eq {z : Bool} {v : Int} {N D : Nat} (hD : 0 < D)
    (h : |(v : Rat) / 2 ^ 149| = (N : Rat) / (D * 2 ^ 149)) :
    B32.roundUnits z v =
      if (v : Rat) / 2 ^ 149 = 0 then .fin z 0 else B32.round (decide ((v : Rat) / 2 ^ 149 < 0)) N D := by
  have hN : v.natAbs * D = N * 1 := by
    rw [abs_div, abs_of_pos (by positivity : (0 : Rat) < 2 ^ 149), div_eq_div_iff (by positivity) (by positivity),
      mul_comm (D : Rat), ← mul_assoc, mul_right_comm, mul_left_inj' (by positivity)] at h
    have habs : ((v.natAbs : Nat) : Rat) = |(v : Rat)| := by rw [Nat.cast_natAbs, Int.cast_abs]
    rw [← habs] at h
    rw [Nat.mul_one]
    exact_mod_cast h
  have hneg : (v : Rat) / 2 ^ 149 < 0 ↔ v < 0 := by
    rw [div_lt_iff₀ (by positivity), zero_mul]
    exact_mod_cast Iff.rfl
  have hzero : (v : Rat) / 2 ^ 149 = 0 ↔ v = 0 := by simp
  unfold B32.roundUnits B32.round
  simp only [hneg, hzero, roundMag_congr Nat.one_pos hD hN]

/-- The product of two magnitudes counts units of 2^-298. -/
theorem B32.mul_fin_eq {s t : Bool} {m n N D : Nat} (hD : 0 < D)
    (h : |(B32.fin s m).toRat * (B32.fin t n).toRat| = (N : Rat) / (D * 2 ^ 149)) :
    B32.mul (.fin s m) (.fin t n) = B32.round (s ^^ t) N D := by
  have habs (s : Bool) (m : Nat) : |(B32.fin s m).toRat| = (m : Rat) / 2 ^ 149 := by
    rw [B32.toRat_fin, abs_div, abs_of_pos (by positivity : (0 : Rat) < 2 ^ 149), ← Int.cast_abs, ← Nat.cast_natAbs,
      natAbs_signedUnits]
  have hN : m * n * D = N * 2 ^ 149 := by
    rw [abs_mul, habs, habs, div_mul_div_comm, div_eq_div_iff (by positivity) (by positivity)] at h
    have h' : (m : Rat) * n * D * 2 ^ 149 = N * 2 ^ 149 * 2 ^ 149 := by linear_combination h
    exact_mod_cast mul_right_cancel₀ (by positivity) h'
  rw [B32.mul, B32.round, B32.round, roundMag_congr (Nat.two_pow_pos 149) hD hN]

/-! ### The format is closed -/

theorem B32.representable_round (s : Bool) (n d : Nat) : (B32.round s n d).representable = true := by
  unfold B32.round
  dsimp only
  split_ifs with h
  · exact B32.representable_fin_iff.mpr ⟨h, roundMag_inFormat n d⟩
  · rfl

theorem B32.representable_zero (s : Bool) : (B32.fin s 0).representable = true := by
  rw [← B32.round_zero s Nat.one_pos]
  exact B32.representable_round ..

/-- An operation gives a NaN, an infinity or a rounded value. -/
theorem B32.representable_add (a b : B32) : (B32.add a b).representable = true := by
  cases a with
  | nan => rfl
  | inf s =>
    cases b with
    | nan | fin t n => rfl
    | inf t => rw [B32.add]; split_ifs <;> rfl
  | fin s m =>
    cases b with
    | nan | inf t => rfl
    | fin t n =>
      rw [B32.add_fin, B32.roundUnits]
      split_ifs
      · exact B32.representable_zero _
      · exact B32.representable_round ..

theorem B32.representable_mul (a b : B32) : (B32.mul a b).representable = true := by
  cases a with
  | nan => rfl
  | inf s =>
    cases b with
    | nan | inf t => rfl
    | fin t n => rw [B32.mul]; split_ifs <;> rfl
  | fin s m =>
    cases b with
    | nan => rfl
    | inf t => rw [B32.mul]; split_ifs <;> rfl
    | fin t n => rw [B32.mul]; exact B32.representable_round ..

/-! ### NaNs and infinities -/

theorem B32.nan_propagates (a : B32) :
    B32.add .nan a = .nan ∧ B32.add a .nan = .nan ∧ B32.sub .nan a = .nan ∧ B32.sub a .nan = .nan ∧
      B32.mul .nan a = .nan ∧ B32.mul a .nan = .nan := by
  cases a <;> simp [B32.add, B32.sub, B32.negate, B32.mul]

/-- The infinities follow IEEE 754: the difference of two equal ones and the product with a zero are NaNs. -/
theorem B32.infinities (s t : Bool) (m : Nat) :
    B32.add (.inf s) (.fin t m) = .inf s ∧ B32.add (.fin t m) (.inf s) = .inf s ∧
    B32.add (.inf s) (.inf t) = (if s = t then .inf s else .nan) ∧
    B32.sub (.inf s) (.fin t m) = .inf s ∧ B32.sub (.fin t m) (.inf s) = .inf (!s) ∧
    B32.sub (.inf s) (.inf t) = (if s = t then .nan else .inf s) ∧
    B32.mul (.inf s) (.fin t m) = (if m = 0 then .nan else .inf (s ^^ t)) ∧
    B32.mul (.fin t m) (.inf s) = (if m = 0 then .nan else .inf (s ^^ t)) ∧
    B32.mul (.inf s) (.inf t) = .inf (s ^^ t) := by
  refine ⟨rfl, rfl, by rw [B32.add], by rw [B32.sub, B32.negate, B32.add], by rw [B32.sub, B32.negate, B32.add], ?_,
    by rw [B32.mul], by rw [B32.mul, Bool.xor_comm], by rw [B32.mul]⟩
  rw [B32.sub, B32.negate, B32.add]
  cases s <;> cases t <;> rfl

/-- Settles O38: each operation rounds the exact result once, and rounding sees the value alone. -/
theorem operationsStayInTheFormat : Obligations.OperationsStayInTheFormat := by
  unfold Obligations.OperationsStayInTheFormat
  intro rounded
  refine ⟨fun a b _ _ => ⟨B32.representable_add .., B32.representable_add .., B32.representable_mul ..⟩, ?_,
    B32.nan_propagates, B32.infinities⟩
  intro s t m n N D hD x y
  have hsum : x + y = ((signedUnits s m + signedUnits t n : Int) : Rat) / 2 ^ 149 := by
    simp only [x, y, B32.toRat_fin]; push_cast; ring
  have hdiff : x - y = ((signedUnits s m - signedUnits t n : Int) : Rat) / 2 ^ 149 := by
    simp only [x, y, B32.toRat_fin]; push_cast; ring
  refine ⟨fun h => ?_, fun h => ?_, fun h => ?_⟩
  · rw [hsum] at h ⊢
    rw [B32.add_fin, B32.roundUnits_eq hD h]
    rfl
  · rw [hdiff] at h ⊢
    rw [B32.sub_fin, B32.roundUnits_eq hD h]
    rfl
  · rw [B32.mul_fin_eq hD h]
    rfl

/-! ### The ordered comparisons -/

@[simp] theorem B32.place_fin (s : Bool) (m : Nat) : B32.place (.fin s m) = some (signedUnits s m) := rfl

theorem B32.place_inf (s : Bool) : B32.place (.inf s) = some (signedUnits s B32.overflow) := rfl

theorem B32.lt_of_place {a b : B32} {x y : Int} (ha : B32.place a = some x) (hb : B32.place b = some y) :
    B32.lt a b = decide (x < y) := by
  simp [B32.lt, ha, hb]

theorem B32.lt_nan (a : B32) : B32.lt .nan a = false ∧ B32.lt a .nan = false := by
  refine ⟨rfl, ?_⟩
  cases a <;> rfl

theorem B32.lt_fin_iff (s t : Bool) (m n : Nat) :
    B32.lt (.fin s m) (.fin t n) = true ↔ (B32.fin s m).toRat < (B32.fin t n).toRat := by
  rw [B32.lt_of_place rfl rfl, decide_eq_true_iff, B32.toRat_fin, B32.toRat_fin,
    div_lt_div_iff_of_pos_right (by positivity)]
  exact_mod_cast Iff.rfl

/-- A magnitude below the overflow lies between the places of the infinities. -/
theorem B32.lt_inf_fin (s t : Bool) {m : Nat} (hm : m < B32.overflow) :
    B32.lt (.inf s) (.fin t m) = s ∧ B32.lt (.fin t m) (.inf s) = !s := by
  rw [B32.lt_of_place (B32.place_inf s) (B32.place_fin t m), B32.lt_of_place (B32.place_fin t m) (B32.place_inf s)]
  cases s <;> cases t <;> simp [signedUnits] <;> omega

theorem B32.lt_inf_inf (s t : Bool) : B32.lt (.inf s) (.inf t) = (s && !t) := by
  have hpos : 0 < B32.overflow := Nat.zero_lt_of_lt (B32.two_pow_lt_overflow (e := 0) (by decide))
  rw [B32.lt_of_place (B32.place_inf s) (B32.place_inf t)]
  cases s <;> cases t <;> simp [signedUnits, hpos]

/-- Settles O40, from the places of the values in the order. -/
theorem comparisonsFollowTheOrder : Obligations.ComparisonsFollowTheOrder := by
  unfold Obligations.ComparisonsFollowTheOrder
  exact ⟨fun _ _ => rfl, B32.lt_nan, B32.lt_fin_iff,
    fun s t _ h => B32.lt_inf_fin s t (B32.representable_fin_iff.mp h).1, B32.lt_inf_inf⟩

/-! ### Patterns -/

theorem signField_pack (s : Bool) (e : BitVec 8) (f : BitVec 23) : signField (packB32 s e f) = s := by
  simp only [signField, packB32, BitVec.getLsbD_append]
  simp

theorem expField_pack (s : Bool) (e : BitVec 8) (f : BitVec 23) : expField (packB32 s e f) = e := by
  unfold expField packB32; ext i hi; simp; grind

theorem fracField_pack (s : Bool) (e : BitVec 8) (f : BitVec 23) : fracField (packB32 s e f) = f := by
  unfold fracField packB32; ext i hi; simp; grind

theorem pack_b32Fields (w : Word) : packB32 (signField w) (expField w) (fracField w) = w := by
  unfold signField expField fracField packB32; ext i hi; simp; grind

/-- The value of a pattern by its three fields (R49). -/
theorem B32.ofBits_pack (s : Bool) (e : BitVec 8) (f : BitVec 23) :
    B32.ofBits (packB32 s e f) =
      if e = 255#8 then if f = 0 then .inf s else .nan
      else if e = 0#8 then .fin s f.toNat
      else .fin s ((2 ^ 23 + f.toNat) * 2 ^ (e.toNat - 1)) := by
  have he (n : Nat) (hn : n < 256) : e.toNat = n ↔ e = BitVec.ofNat 8 n := by
    rw [← BitVec.toNat_inj, BitVec.toNat_ofNat, Nat.mod_eq_of_lt hn]
  have hf : f.toNat = 0 ↔ f = 0 := by rw [← BitVec.toNat_inj]; rfl
  simp only [B32.ofBits, signField_pack, expField_pack, fracField_pack, he 255 (by decide), he 0 (by decide), hf]

/-- A magnitude from `2^23` on is a significand of 24 bits at some weight. -/
theorem InFormat.exists_significand {m : Nat} (hm : InFormat m) (h : 2 ^ 23 ≤ m) :
    ∃ k e, 2 ^ 23 ≤ k ∧ k < 2 ^ 24 ∧ m = k * 2 ^ e := by
  have hne : m ≠ 0 := by omega
  have hlog : 23 ≤ m.log2 := (Nat.le_log2 hne).mpr h
  obtain ⟨k, hk⟩ := hm
  obtain ⟨hlow, hhigh⟩ := (Nat.log2_eq_iff hne).mp rfl
  refine ⟨k, m.log2 - 23, ?_, ?_, by rw [Nat.mul_comm]; exact hk⟩
  · refine Nat.le_of_mul_le_mul_left ?_ (Nat.two_pow_pos (m.log2 - 23))
    rwa [← hk, ← pow_add, Nat.sub_add_cancel hlog]
  · refine Nat.lt_of_mul_lt_mul_left (a := 2 ^ (m.log2 - 23)) ?_
    rwa [← hk, ← pow_add, show m.log2 - 23 + 24 = m.log2 + 1 by omega]

/-- The pattern of a normal value: biased exponent and fraction of its significand (R49). -/
theorem B32.toBits_normal (free : Word) (s : Bool) {k : Nat} (hlow : 2 ^ 23 ≤ k) (hhigh : k < 2 ^ 24) (e : Nat) :
    B32.toBits free (.fin s (k * 2 ^ e)) = packB32 s (BitVec.ofNat 8 (e + 1)) (BitVec.ofNat 23 k) := by
  have hge : ¬ k * 2 ^ e < 2 ^ 23 := by
    have := Nat.le_mul_of_pos_right k (Nat.two_pow_pos e)
    omega
  rw [B32.toBits, if_neg hge, log2_mul_two_pow hlow hhigh, Nat.add_sub_cancel_left,
    Nat.mul_div_cancel _ (Nat.two_pow_pos e), show 23 + e - 22 = e + 1 by omega]

theorem B32.toBits_subnormal (free : Word) (s : Bool) {m : Nat} (h : m < 2 ^ 23) :
    B32.toBits free (.fin s m) = packB32 s 0#8 (BitVec.ofNat 23 m) := by
  rw [B32.toBits, if_pos h]

theorem B32.representable_ofBits_pack (s : Bool) (e : BitVec 8) (f : BitVec 23) :
    (B32.ofBits (packB32 s e f)).representable = true := by
  have hf : f.toNat < 2 ^ 23 := f.isLt
  rw [B32.ofBits_pack]
  split_ifs with h255 hzero h0
  · rfl
  · rfl
  · have hlt : f.toNat * 2 ^ 0 < B32.overflow :=
      (by omega : f.toNat * 2 ^ 0 < 2 ^ 23).trans (B32.two_pow_lt_overflow (by decide))
    simpa using B32.representable_mul_two_pow s (e := 0) (by omega) hlt
  · have he : e.toNat - 1 ≤ 253 := by
      have hne : e.toNat ≠ 255 := fun h => h255 (BitVec.eq_of_toNat_eq h)
      have := e.isLt
      omega
    refine B32.representable_mul_two_pow s (by omega) ?_
    calc (2 ^ 23 + f.toNat) * 2 ^ (e.toNat - 1) < 2 ^ 24 * 2 ^ (e.toNat - 1) :=
          Nat.mul_lt_mul_of_pos_right (by omega) (Nat.two_pow_pos _)
      _ ≤ 2 ^ 24 * 2 ^ 253 := Nat.mul_le_mul_left _ (Nat.pow_le_pow_right (by decide) he)
      _ = B32.overflow := by rw [← pow_add, B32.overflow]

/-- `bits` of the value of a pattern that is no NaN. -/
theorem B32.toBits_ofBits_pack (free : Word) (s : Bool) (e : BitVec 8) (f : BitVec 23)
    (h : B32.ofBits (packB32 s e f) ≠ .nan) : (B32.ofBits (packB32 s e f)).toBits free = packB32 s e f := by
  have hf : f.toNat < 2 ^ 23 := f.isLt
  rw [B32.ofBits_pack] at h ⊢
  split_ifs at h ⊢ with h255 hzero h0
  · rw [h255, hzero]; rfl
  · exact absurd rfl h
  · rw [B32.toBits_subnormal free s hf, h0, BitVec.ofNat_toNat, BitVec.setWidth_eq]
  · have he : e.toNat ≠ 0 := fun h => h0 (BitVec.eq_of_toNat_eq h)
    have hfrac : BitVec.ofNat 23 (2 ^ 23 + f.toNat) = f := BitVec.eq_of_toNat_eq (by simp; omega)
    rw [B32.toBits_normal free s (by omega) (by omega), hfrac, Nat.sub_add_cancel (by omega), BitVec.ofNat_toNat,
      BitVec.setWidth_eq]

theorem B32.ofBits_nanPattern (free : Word) : B32.ofBits (nanPattern free) = .nan := by
  have hfrac : (if fracField free = 0 then 0x400000#23 else fracField free) ≠ 0 := by
    split_ifs with h
    · decide
    · exact h
  rw [nanPattern, B32.ofBits_pack, if_pos rfl, if_neg hfrac]

/-- The value of the pattern of a value of the format. -/
theorem B32.ofBits_toBits (free : Word) {x : B32} (h : x.representable = true) : B32.ofBits (x.toBits free) = x := by
  cases x with
  | nan => exact B32.ofBits_nanPattern free
  | inf s => exact B32.ofBits_pack s 255#8 0#23
  | fin s m =>
    obtain ⟨hlt, hm⟩ := B32.representable_fin_iff.mp h
    rcases Nat.lt_or_ge m (2 ^ 23) with hsmall | hbig
    · rw [B32.toBits_subnormal free s hsmall, B32.ofBits_pack, if_neg (by decide), if_pos rfl, BitVec.toNat_ofNat,
        Nat.mod_eq_of_lt hsmall]
    · obtain ⟨k, e, hlow, hhigh, rfl⟩ := InFormat.exists_significand hm hbig
      have he : e < 254 := by
        have hpow : 2 ^ (23 + e) < 2 ^ 277 := by
          rw [pow_add]
          exact (Nat.mul_le_mul_right _ hlow).trans_lt hlt
        have := (Nat.pow_lt_pow_iff_right Nat.one_lt_two).mp hpow
        omega
      have hexp : (BitVec.ofNat 8 (e + 1)).toNat = e + 1 := by
        rw [BitVec.toNat_ofNat, Nat.mod_eq_of_lt (by omega)]
      have h255 : BitVec.ofNat 8 (e + 1) ≠ 255#8 := fun h => by
        have := congrArg BitVec.toNat h
        simp only [hexp, BitVec.toNat_ofNat] at this
        omega
      have h0 : BitVec.ofNat 8 (e + 1) ≠ 0#8 := fun h => by
        have := congrArg BitVec.toNat h
        simp only [hexp, BitVec.toNat_ofNat] at this
        omega
      have hfrac : 2 ^ 23 + (BitVec.ofNat 23 k).toNat = k := by rw [BitVec.toNat_ofNat]; omega
      rw [B32.toBits_normal free s hlow hhigh, B32.ofBits_pack, if_neg h255, if_neg h0, hfrac, hexp,
        Nat.add_sub_cancel]

/-- Settles O39: a pattern is its three fields, and a value an infinity, a fraction or a significand of 24 bits. -/
theorem bitsAndFromBitsAreInverse : Obligations.BitsAndFromBitsAreInverse := by
  unfold Obligations.BitsAndFromBitsAreInverse
  refine ⟨fun w free h => ?_, fun x free h => B32.ofBits_toBits free h, fun w => ?_⟩
  · rw [← pack_b32Fields w] at h ⊢
    exact B32.toBits_ofBits_pack free _ _ _ h
  · rw [← pack_b32Fields w]
    exact B32.representable_ofBits_pack ..

end Sys2Proof.Machine

namespace Sys2Proof.Machine

/-! The classifier on the values of binary32: the largest power (R81), the cutoff against it (R83 to R85, R102), and the
decision on two bins (R103). -/

/-! ### The largest power -/

theorem B32.place_eq_none_iff {x : B32} : B32.place x = none ↔ x = .nan := by cases x <;> simp [B32.place]

/-- "Not greater" passes on through a value that is no NaN. -/
theorem B32.gt_false_trans {a b c : B32} (hb : b ≠ .nan) (hab : B32.gt a b = false) (hbc : B32.gt b c = false) :
    B32.gt a c = false := by
  obtain ⟨y, hy⟩ := Option.ne_none_iff_exists'.mp (mt B32.place_eq_none_iff.mp hb)
  rcases ha : B32.place a with _ | x
  · simp [B32.gt, B32.lt, ha]
  · rcases hc : B32.place c with _ | z
    · simp [B32.gt, B32.lt, hc]
    · simp only [B32.gt, B32.lt_of_place hy ha, B32.lt_of_place hc hy, B32.lt_of_place hc ha,
        decide_eq_false_iff_not] at *
      omega

theorem B32.gt_asymm {a b : B32} (h : B32.gt a b = true) : B32.gt b a = false := by
  unfold B32.gt B32.lt at *
  grind

/-- The louder of the maximum so far and the next power (R81). -/
def louder (p : Vector B32 18) (m : B32) (i : Fin 17) : B32 := if B32.gt p[i.succ] m then p[i.succ] else m

theorem maxPower_fmt (p : Vector B32 18) : maxPower fmt p = (List.finRange 17).foldl (louder p) p[0] := by
  unfold maxPower; rfl

section Louder
variable {p : Vector B32 18} {m : B32} {i : Fin 17}

theorem louder_ne_nan (hp : ∀ j : Fin 18, p[j] ≠ .nan) (hm : m ≠ .nan) : louder p m i ≠ .nan := by
  unfold louder; split_ifs
  · exact hp i.succ
  · exact hm

theorem gt_louder (p : Vector B32 18) (m : B32) (i : Fin 17) :
    B32.gt m (louder p m i) = false ∧ B32.gt p[i.succ] (louder p m i) = false := by
  unfold louder
  split_ifs with h
  · exact ⟨B32.gt_asymm h, B32.lt_self _⟩
  · exact ⟨B32.lt_self _, by simpa using h⟩

/-- Neither the first value nor a power folded in is greater than the result. -/
theorem gt_foldl_louder (hp : ∀ j : Fin 18, p[j] ≠ .nan) (l : List (Fin 17)) (hm : m ≠ .nan) :
    B32.gt m (l.foldl (louder p) m) = false ∧ ∀ i ∈ l, B32.gt p[i.succ] (l.foldl (louder p) m) = false := by
  induction l generalizing m with
  | nil => exact ⟨B32.lt_self m, by simp⟩
  | cons i l ih =>
    have hnan : louder p m i ≠ .nan := louder_ne_nan hp hm
    obtain ⟨hfirst, hrest⟩ := ih hnan
    obtain ⟨hold, hnew⟩ := gt_louder p m i
    refine ⟨B32.gt_false_trans hnan hold hfirst, fun k hk => ?_⟩
    rcases List.mem_cons.mp hk with rfl | hk
    · exact B32.gt_false_trans hnan hnew hfirst
    · exact hrest k hk

end Louder

theorem gt_maxPower {p : Vector B32 18} (hp : ∀ j : Fin 18, p[j] ≠ .nan) (j : Fin 18) :
    B32.gt p[j] (maxPower fmt p) = false := by
  obtain ⟨hfirst, hrest⟩ := gt_foldl_louder hp (List.finRange 17) (hp 0)
  rw [maxPower_fmt]
  cases j using Fin.cases with
  | zero => exact hfirst
  | succ i => exact hrest i (List.mem_finRange i)

/-- Settles O47: the fold ends in one of the powers, and the greater of two is kept at every step. -/
theorem maximumIsAGreatestPower : Obligations.MaximumIsAGreatestPower := by
  unfold Obligations.MaximumIsAGreatestPower
  exact fun p hp => ⟨maxPower_mem fmt p, gt_maxPower hp⟩

/-! ### The cutoff -/

theorem B32.gt_fin (m n : Nat) : B32.gt (.fin false m) (.fin false n) = decide (n < m) := by
  rw [B32.gt, B32.lt_of_place (B32.place_fin ..) (B32.place_fin ..)]
  simp [signedUnits]

/-- Rounding does not pass below a magnitude of the format that the quotient reaches (R69). -/
theorem le_roundMag {n d m : Nat} (hd : 0 < d) (hm : InFormat m) (h : m * d ≤ n) : m ≤ roundMag n d := by
  obtain ⟨hle, -⟩ := roundMag_nearest n hd hm
  by_contra hlt
  have hlt' : roundMag n d * d < m * d := Nat.mul_lt_mul_of_pos_right (not_le.mp hlt) hd
  zify at *
  simp only [abs_eq_max_neg] at hle
  omega

/-- It stays below a magnitude of the format when the quotient is nearer to a lower one. -/
theorem roundMag_lt {n d m m' : Nat} (hd : 0 < d) (hm' : InFormat m') (hlt : m' < m) (h : 2 * n < (m + m') * d) :
    roundMag n d < m := by
  obtain ⟨hle, -⟩ := roundMag_nearest n hd hm'
  by_contra hge
  have hge' : m * d ≤ roundMag n d * d := Nat.mul_le_mul_right _ (not_lt.mp hge)
  have hlt' : m' * d < m * d := Nat.mul_lt_mul_of_pos_right hlt hd
  rw [Nat.add_mul] at h
  zify at *
  simp only [abs_eq_max_neg] at hle
  omega

/-- A magnitude above `2^23` has a lower neighbour in the format, less than one part in `2^23` below it. -/
theorem InFormat.exists_lower {m : Nat} (hm : InFormat m) (h : 2 ^ 23 < m) :
    ∃ m', InFormat m' ∧ m' < m ∧ 2 ^ 23 * m < 2 ^ 23 * m' + m := by
  obtain ⟨k, e, hlow, hhigh, rfl⟩ := hm.exists_significand h.le
  have hpos := Nat.two_pow_pos e
  rcases Nat.lt_or_eq_of_le hlow with hk | rfl
  · refine ⟨(k - 1) * 2 ^ e, inFormat_mul_two_pow (by omega) e, Nat.mul_lt_mul_of_pos_right (by omega) hpos, ?_⟩
    obtain ⟨j, rfl⟩ : ∃ j, k = j + 1 := ⟨k - 1, by omega⟩
    have : 2 ^ 23 * 2 ^ e < (j + 1) * 2 ^ e := Nat.mul_lt_mul_of_pos_right hk hpos
    simp only [Nat.add_sub_cancel, Nat.add_mul] at *
    omega
  · obtain ⟨e, rfl⟩ : ∃ f, e = f + 1 := ⟨e - 1, by rcases e with _ | e <;> simp at h ⊢⟩
    refine ⟨(2 ^ 24 - 1) * 2 ^ e, inFormat_mul_two_pow (by decide) e, ?_, ?_⟩ <;> rw [pow_succ 2 e] <;>
      have := Nat.two_pow_pos e <;> omega

/-- A range below 1 is one unit in the last place below it, or more. -/
theorem InFormat.le_of_lt_one {r : Nat} (hr : InFormat r) (h : r < 2 ^ 149) : r ≤ 2 ^ 149 - 2 ^ 125 := by
  by_contra hgt
  obtain ⟨k, rfl⟩ := hr.two_pow_dvd (e := 125) (by omega)
  omega

/-- The cutoff of a range below 1 lies below the power it is taken from (R85). -/
theorem roundMag_cutoff_lt {r m : Nat} (hr : InFormat r) (hm : InFormat m) (hone : r < 2 ^ 149) (h : 2 ^ 23 < m) :
    roundMag (r * m) (2 ^ 149) < m := by
  obtain ⟨m', hm', hlt, hnear⟩ := hm.exists_lower h
  refine roundMag_lt (Nat.two_pow_pos _) hm' hlt ?_
  have hprod : r * m ≤ (2 ^ 149 - 2 ^ 125) * m := Nat.mul_le_mul_right m (hr.le_of_lt_one hone)
  omega

/-- Settles O50: the cutoff is finite and below the loudest power. -/
theorem loudestBinIsOn : Obligations.LoudestBinIsOn := by
  unfold Obligations.LoudestBinIsOn
  intro p thresh mf r m j hmax hj hfloor hr hm hone hbig
  obtain ⟨-, hr⟩ := B32.representable_fin_iff.mp hr
  obtain ⟨hover, hm⟩ := B32.representable_fin_iff.mp hm
  have hlt : roundMag (r * m) (2 ^ 149) < m := roundMag_cutoff_lt hr hm hone hbig
  have hcut : B32.mul (.fin false r) (.fin false m) = .fin false (roundMag (r * m) (2 ^ 149)) := by
    rw [B32.mul, B32.round, if_pos (hlt.trans hover)]
    rfl
  have hon : (classify fmt p thresh (.fin false r) mf).on.getLsbD j.val =
      B32.gt p[j] (B32.mul (.fin false r) (maxPower fmt p)) := by
    rw [classify_decide (A := fmt) hfloor]
    exact getLsbD_onVector fmt p _ j
  rw [hon, hj, hmax, hcut, B32.gt_fin, decide_eq_true_iff]
  exact hlt

/-- A range of at least 1, an infinite one or a NaN gives a cutoff that no power up to `m` exceeds (R102). -/
theorem gt_cutoff_of_large {range : B32} {n m : Nat} (hm : (B32.fin false m).representable = true) (hle : n ≤ m)
    (hrange : range = .nan ∨ range = .inf false ∨ ∃ r, range = .fin false r ∧ 2 ^ 149 ≤ r) :
    B32.gt (.fin false n) (B32.mul range (.fin false m)) = false := by
  obtain ⟨hover, hfmt⟩ := B32.representable_fin_iff.mp hm
  have hinf : B32.gt (.fin false n) (.inf false) = false := (B32.lt_inf_fin false false (hle.trans_lt hover)).1
  rcases hrange with rfl | rfl | ⟨r, rfl, hone⟩
  · rfl
  · rw [B32.mul]
    split_ifs
    · rfl
    · exact hinf
  · have hcut : m ≤ roundMag (r * m) (2 ^ 149) :=
      le_roundMag (Nat.two_pow_pos _) hfmt (by rw [Nat.mul_comm m]; exact Nat.mul_le_mul_right m hone)
    rw [B32.mul, B32.round]
    split_ifs
    · rw [Bool.xor_self, B32.gt_fin, decide_eq_false_iff_not]
      omega
    · exact hinf

theorem onVector_eq_zero {F : Type} {A : Format F} {p : Vector F 18} {c : F} (h : ∀ j : Fin 18, A.gt p[j] c = false) :
    onVector A p c = 0#18 := by
  refine BitVec.eq_of_getLsbD_eq fun i hi => ?_
  have hbit := getLsbD_onVector A p c ⟨i, hi⟩
  rw [h] at hbit
  simpa using hbit

/-- Settles O51: below the floor nothing is looked at, and above it no power exceeds the cutoff. -/
theorem largeOrNanRangeIsSilence : Obligations.LargeOrNanRangeIsSilence := by
  unfold Obligations.LargeOrNanRangeIsSilence
  intro p thresh range mf hp hrange
  rcases hfloor : B32.lt (maxPower fmt p) thresh with _ | _
  · obtain ⟨k, hk⟩ := maxPower_mem fmt p
    obtain ⟨m, hpk, hm⟩ := hp k
    have hmax : maxPower fmt p = .fin false m := hk.trans hpk
    have hnan : ∀ j : Fin 18, p[j] ≠ .nan := fun j => by obtain ⟨n, hn, -⟩ := hp j; simp [hn]
    have hzero : onVector fmt p (B32.mul range (maxPower fmt p)) = 0#18 := by
      refine onVector_eq_zero fun j => ?_
      obtain ⟨n, hn, -⟩ := hp j
      have hle : n ≤ m := by simpa [hn, hmax, B32.gt_fin] using gt_maxPower hnan j
      rw [hn, hmax]
      exact gt_cutoff_of_large hm hle hrange
    have hverdict := classify_decide (A := fmt) (range := range) (mf := mf) hfloor
    rw [show fmt.mul = B32.mul from rfl, hzero, decideOnSet_zero] at hverdict
    exact hverdict
  · exact classify_floor hfloor

/-! ### Two bins on -/

theorem onCount_eq_two {on : BitVec 18} (h : onCount on = 2) : ∃ a b : Bin, a < b ∧ on = pairMask a b := by
  obtain ⟨a, b, hne, hset⟩ := Finset.card_eq_two.mp ((card_onSet on).trans h)
  rcases lt_or_gt_of_ne hne with hlt | hlt
  · exact ⟨a, b, hlt, onSet_injective (by rw [hset, onSet_pairMask])⟩
  · exact ⟨b, a, hlt, onSet_injective (by rw [hset, onSet_pairMask, Finset.pair_comm])⟩

/-- The tests of R89 in order give the table of R103 on every pair. -/
theorem decidePair_pairMask : ∀ (a b : Bin) (mf : Bool), a < b →
    decidePair (pairMask a b) mf = (pairSymbol a b mf,
      if (a = 9 ∧ b = 15) ∨ (a = 11 ∧ b = 15) then true else if a = 13 ∧ b = 15 then false else mf) := by
  decide +kernel

/-- Settles O53: the two bins that are on are a pair, and the pairs are looked up one by one. -/
theorem pairDecisionTable : Obligations.PairDecisionTable := by
  unfold Obligations.PairDecisionTable
  intro on mf h
  obtain ⟨a, b, hlt, rfl⟩ := onCount_eq_two h
  exact ⟨a, b, hlt, rfl, (decideOnSet_pair mf h).trans (decidePair_pairMask a b mf hlt)⟩

end Sys2Proof.Machine

namespace Sys2Proof.Machine

/-! The Formatter at the boundary: its set-up (R115), runs of silence (R110), held tones (R111, R113), and the texts of
whole sessions (R117). -/

/-! ### Set-up -/

theorem Formatter.setup_of_pos {flush : Int} (h : 0 < flush) :
    Formatter.setup flush = some (Formatter.start ⟨flush.toNat, by omega⟩) := dif_pos h

theorem Formatter.setup_eq_none_iff {flush : Int} : Formatter.setup flush = none ↔ flush ≤ 0 := by
  unfold Formatter.setup
  split_ifs with h <;> simp <;> omega

/-- Settles O59: session and stream go through the set-up. -/
theorem flushThresholdIsChecked : Obligations.FlushThresholdIsChecked := by
  unfold Obligations.FlushThresholdIsChecked
  refine ⟨fun flush xs ws => ⟨Formatter.setup_eq_none_iff, ?_, ?_⟩, fun flush h => ?_, fun _ _ => ⟨rfl, rfl⟩⟩
  · rw [Formatter.session, Option.map_eq_none_iff, Formatter.setup_eq_none_iff]
  · rw [Formatter.stream, Option.map_eq_none_iff, Formatter.setup_eq_none_iff]
  · exact ⟨_, Formatter.setup_of_pos h, Int.toNat_of_nonneg h.le, rfl, rfl⟩

theorem Formatter.session_of_pos {flush : Int} (h : 0 < flush) (xs : List Symbol) :
    Formatter.session xs flush =
      some (((Formatter.start ⟨flush.toNat, by omega⟩).pushAll xs).2 ++ [.newline]) := by
  rw [Formatter.session, Formatter.setup_of_pos h]
  rfl

theorem Formatter.session_of_nat_pos {flush : Nat} (h : 0 < flush) (xs : List Symbol) :
    Formatter.session xs flush = some (((Formatter.start ⟨flush, h⟩).pushAll xs).2 ++ [.newline]) :=
  Formatter.session_of_pos (by exact_mod_cast h) xs

/-! ### Pushes -/

section Push
variable {f g h : Formatter} {x : Symbol} {xs ys : List Symbol} {ts us : List Token}

theorem Formatter.pushAll_cons (hx : f.push x = (g, ts)) (hxs : g.pushAll xs = (h, us)) :
    f.pushAll (x :: xs) = (h, ts ++ us) := by
  rw [Formatter.pushAll, hx, hxs]

/-- Pushes in two parts. -/
theorem Formatter.pushAll_append (hxs : f.pushAll xs = (g, ts)) (hys : g.pushAll ys = (h, us)) :
    f.pushAll (xs ++ ys) = (h, ts ++ us) := by
  induction xs generalizing f ts with
  | nil => cases hxs; exact hys
  | cons x xs ih =>
    cases hxs
    rw [List.cons_append, Formatter.pushAll, ih rfl, List.append_assoc]

theorem Formatter.pushAll_concat (hxs : f.pushAll xs = (g, ts)) (hx : g.push x = (h, us)) :
    f.pushAll (xs ++ [x]) = (h, ts ++ us) :=
  Formatter.pushAll_append hxs (by simpa using Formatter.pushAll_cons hx (show h.pushAll [] = (h, []) from rfl))

end Push

/-- A symbol that is neither Silence nor Invalid (R111). -/
def Symbol.IsTone (x : Symbol) : Prop := x ≠ .silence ∧ x ≠ .invalid

section Runs
variable (fl : FlushCount) {x : Symbol}

theorem Formatter.push_silence_counting (last : Symbol) {n : Nat} (h : n + 1 < fl.val) :
    (Formatter.mk fl last (some n)).push .silence = (⟨fl, .silence, some (n + 1)⟩, []) := by
  simp [Formatter.push, Formatter.pushSilence, h.ne]

theorem Formatter.push_silence_flush (last : Symbol) {n : Nat} (h : n + 1 = fl.val) :
    (Formatter.mk fl last (some n)).push .silence = (⟨fl, .silence, none⟩, [.newline]) := by
  simp [Formatter.push, Formatter.pushSilence, h]

theorem Formatter.push_silence_suspended (last : Symbol) :
    (Formatter.mk fl last none).push .silence = (⟨fl, .silence, none⟩, []) := by
  simp [Formatter.push, Formatter.pushSilence]

theorem Formatter.push_invalid (f : Formatter) : f.push .invalid = (f, []) := by
  simp [Formatter.push]

theorem Formatter.push_tone (hx : x.IsTone) (last : Symbol) (run : Option Nat) :
    (Formatter.mk fl last run).push x =
      (⟨fl, x, some 0⟩, if x ≠ last ∧ last.allowsEmission then [.symbol x] else []) := by
  simp [Formatter.push, Formatter.pushTone, hx.1, hx.2]

/-- A tone after silence is emitted (R111). -/
theorem Formatter.push_tone_fresh (hx : x.IsTone) (run : Option Nat) :
    (Formatter.mk fl .silence run).push x = (⟨fl, x, some 0⟩, [.symbol x]) := by
  rw [Formatter.push_tone fl hx, if_pos ⟨hx.1, rfl⟩]

/-- A tone again is not. -/
theorem Formatter.push_tone_held (hx : x.IsTone) :
    (Formatter.mk fl x (some 0)).push x = (⟨fl, x, some 0⟩, []) := by
  rw [Formatter.push_tone fl hx, if_neg (by simp)]

/-- A silence run below the threshold is counted and emits nothing (R110). -/
theorem Formatter.pushAll_silences_short (last : Symbol) (n : Nat) (h : n + 1 < fl.val) :
    (Formatter.mk fl last (some 0)).pushAll (List.replicate (n + 1) .silence) = (⟨fl, .silence, some (n + 1)⟩, []) := by
  induction n with
  | zero => exact Formatter.pushAll_cons (Formatter.push_silence_counting fl last h) rfl
  | succ n ih =>
    rw [List.replicate_succ']
    exact Formatter.pushAll_concat (ih (by omega)) (Formatter.push_silence_counting fl _ h)

/-- A silence run of exactly the threshold emits one line break and suspends the count. -/
theorem Formatter.pushAll_silences_full (last : Symbol) :
    (Formatter.mk fl last (some 0)).pushAll (List.replicate fl.val .silence) = (⟨fl, .silence, none⟩, [.newline]) := by
  obtain ⟨n, hn⟩ : ∃ n, fl.val = n + 1 := ⟨fl.val - 1, by have := fl.property; omega⟩
  rw [hn, List.replicate_succ']
  rcases n with _ | n
  · exact Formatter.pushAll_concat rfl (Formatter.push_silence_flush fl last hn.symm)
  · exact Formatter.pushAll_concat (Formatter.pushAll_silences_short fl last n (by omega))
      (Formatter.push_silence_flush fl _ hn.symm)

/-- After that the run emits nothing more. -/
theorem Formatter.pushAll_silences_suspended (n : Nat) :
    (Formatter.mk fl .silence none).pushAll (List.replicate n .silence) = (⟨fl, .silence, none⟩, []) := by
  induction n with
  | zero => rfl
  | succ n ih => exact Formatter.pushAll_cons (Formatter.push_silence_suspended fl _) ih

/-- Frames of the tone, or of Invalid, while it is held (R111, R113). -/
theorem Formatter.pushAll_held (hx : x.IsTone) (ys : List Symbol) (hys : ∀ y ∈ ys, y = x ∨ y = .invalid) :
    (Formatter.mk fl x (some 0)).pushAll ys = (⟨fl, x, some 0⟩, []) := by
  induction ys with
  | nil => rfl
  | cons y ys ih =>
    obtain ⟨hy, hrest⟩ := List.forall_mem_cons.mp hys
    rcases hy with rfl | rfl
    · exact Formatter.pushAll_cons (Formatter.push_tone_held fl hx) (ih hrest)
    · exact Formatter.pushAll_cons (Formatter.push_invalid _) (ih hrest)

/-- A tone held for a frame or more, then a gap of silence below the threshold. -/
theorem Formatter.pushAll_gapped (hx : x.IsTone) (run : Option Nat) (k n : Nat) (hn : n + 1 < fl.val) :
    (Formatter.mk fl .silence run).pushAll (List.replicate (k + 1) x ++ List.replicate (n + 1) .silence) =
      (⟨fl, .silence, some (n + 1)⟩, [.symbol x]) := by
  have hheld : (Formatter.mk fl x (some 0)).pushAll (List.replicate k x) = (⟨fl, x, some 0⟩, []) :=
    Formatter.pushAll_held fl hx _ fun y hy => .inl (List.eq_of_mem_replicate hy)
  have htone : (Formatter.mk fl .silence run).pushAll (List.replicate (k + 1) x) = (⟨fl, x, some 0⟩, [.symbol x]) :=
    Formatter.pushAll_cons (Formatter.push_tone_fresh fl hx run) hheld
  exact Formatter.pushAll_append htone (Formatter.pushAll_silences_short fl x n hn)

/-- Gapped tones come out once each and in order, and leave the Formatter ready for the next. -/
theorem Formatter.pushAll_gapped_list (ds : List (Symbol × Nat × Nat)) (run : Option Nat)
    (hds : ∀ d ∈ ds, d.1 ≠ .silence ∧ d.1 ≠ .invalid ∧ 1 ≤ d.2.1 ∧ 1 ≤ d.2.2 ∧ d.2.2 < fl.val) :
    ((Formatter.mk fl .silence run).pushAll
      (ds.flatMap fun d => List.replicate d.2.1 d.1 ++ List.replicate d.2.2 .silence)).2 =
      ds.map fun d => Token.symbol d.1 := by
  induction ds generalizing run with
  | nil => rfl
  | cons d ds ih =>
    obtain ⟨⟨hsil, hinv, hheld, hgap, hshort⟩, hds⟩ := List.forall_mem_cons.mp hds
    obtain ⟨k, hk⟩ := Nat.exists_eq_add_of_le' hheld
    obtain ⟨n, hn⟩ := Nat.exists_eq_add_of_le' hgap
    have hfirst := Formatter.pushAll_gapped fl (x := d.1) ⟨hsil, hinv⟩ run k n (by omega)
    rw [← hk, ← hn] at hfirst
    rw [List.flatMap_cons, Formatter.pushAll_append hfirst rfl, ih _ hds]
    rfl

end Runs

/-! ### Sessions -/

/-- The silence run of a whole session: one line break from the threshold on. -/
theorem Formatter.pushAll_start_silences (fl : FlushCount) (n : Nat) :
    ((Formatter.start fl).pushAll (List.replicate n .silence)).2 = if fl.val ≤ n then [.newline] else [] := by
  split_ifs with h
  · obtain ⟨k, rfl⟩ := Nat.exists_eq_add_of_le h
    rw [List.replicate_add, Formatter.start, Formatter.pushAll_append (Formatter.pushAll_silences_full fl .silence)
      (Formatter.pushAll_silences_suspended fl k)]
    rfl
  · rcases n with _ | n
    · rfl
    · rw [Formatter.start, Formatter.pushAll_silences_short fl .silence n (by omega)]

/-- Settles O56: the count reaches the threshold once, and the tone starts it again. -/
theorem silenceRunFlushesOnce : Obligations.SilenceRunFlushesOnce := by
  unfold Obligations.SilenceRunFlushesOnce
  intro flush n hflush
  refine ⟨by rw [Formatter.session_of_nat_pos hflush, Formatter.pushAll_start_silences], fun x hsil hinv => ?_⟩
  have hfirst := Formatter.pushAll_silences_full ⟨flush, hflush⟩ .silence
  have hsecond := Formatter.pushAll_cons (Formatter.push_tone_fresh ⟨flush, hflush⟩ ⟨hsil, hinv⟩ none)
    (Formatter.pushAll_silences_full ⟨flush, hflush⟩ x)
  rw [Formatter.session_of_nat_pos hflush, Formatter.start, Formatter.pushAll_append hfirst hsecond]
  rfl

/-- Settles O57: the first frame emits the tone, and the others only hold it. -/
theorem heldToneEmittedOnce : Obligations.HeldToneEmittedOnce := by
  unfold Obligations.HeldToneEmittedOnce
  intro flush x xs hflush hsil hinv hxs
  have hx : x.IsTone := ⟨hsil, hinv⟩
  rw [Formatter.session_of_pos hflush, Formatter.start,
    Formatter.pushAll_cons (Formatter.push_tone_fresh _ hx _) (Formatter.pushAll_held _ hx xs hxs)]
  rfl

/-- Settles O58, by induction over the tones. -/
theorem gappedTonesRoundTrip : Obligations.GappedTonesRoundTrip := by
  unfold Obligations.GappedTonesRoundTrip
  intro flush ds hflush hds
  rw [Formatter.session_of_nat_pos hflush, Formatter.start, Formatter.pushAll_gapped_list ⟨flush, hflush⟩ ds _ hds]

end Sys2Proof.Machine
